-- ==== Sys2Proof/Word.lean ====
section
/-! DEFINITION. The word types of the block (00_scope.md R7): vectors of bits, bit 0 least significant,
all unsigned. -/

namespace Sys2Proof

/-- A byte, a vector of 8 bits (R7). -/
abbrev Byte := BitVec 8

/-- A word32, a vector of 32 bits (R7): the width of the one WIDE port. -/
abbrev Word32 := BitVec 32

/-- The 24-bit command word `OP ++ A ++ B` (30_encoding.md R80). -/
abbrev CommandWord := BitVec 24

end Sys2Proof
end

