-- ==== Sys2Proof/Config.lean ====
section
/-! DEFINITION. What a build fixes: the board profile (10_state.md R22) and the parameters of 00_scope.md R6;
the four example profiles of 95_test_vectors.md section 2; the free values the spec leaves to the environment. -/

namespace Sys2Proof

/-- The kind of a profile (R22, 41_profile_translation.md R131 to R133). -/
inductive Kind where
  /-- 8-bit port registers of the host (R131). -/
  | native
  /-- The one or two 8-bit ports of the serial expander (R132). -/
  | remote
  /-- One flat 32-bit GPIO namespace (R133). -/
  | wide
deriving DecidableEq, Repr

/-- Where one logical line lives: the triple `(port, bit, pol)` of R22. -/
structure Line where
  /-- Physical port identifier. -/
  port : Nat
  /-- Bit index within that port. -/
  bit : Nat
  /-- Polarity, true = inverting (00_scope.md R6, `pol`). -/
  pol : Bool
deriving DecidableEq, Repr

/-- `dmap` or `cmap` of R22: the triple of each of the eight logical bit positions. -/
abbrev LineMap := Vector Line 8

/-- The three storage registers of a port (R26). -/
inductive Reg where
  /-- `OUT[p]`, the output latch. -/
  | out
  /-- `DIR[p]`, the direction register. -/
  | dir
  /-- `PUE[p]`, the pull-up register. -/
  | pue
deriving DecidableEq, Repr

/-- The identifiers of one remote port's registers (R22, R33): `REG_DIR(p)`, `REG_PUE(p)`, `REG_PORT(p)`. -/
structure RemoteIds where
  port : Nat
  regDir : Byte
  regPue : Byte
  regPort : Byte
deriving DecidableEq, Repr

/-- `PROFILE` (R22), the constant of the build. The width `W(p)` and `dir_inv(p)` are derived from the kind.
The last four fields mean something on REMOTE only. -/
structure Profile where
  kind : Kind
  /-- `PORTS`, in ascending order. -/
  ports : List Nat
  /-- Logical data line `D(i)`. -/
  dmap : LineMap
  /-- Logical control line `C(i)`. -/
  cmap : LineMap
  /-- `REG_DIR`, `REG_PUE`, `REG_PORT`, one entry per port. -/
  remoteIds : List RemoteIds
  /-- `REG_CAP`. -/
  regCap : Byte
  /-- `CTRL_WR`, first byte of a write frame. -/
  ctrlWr : Byte
  /-- `CTRL_RD`, first byte of a read frame. -/
  ctrlRd : Byte
deriving DecidableEq, Repr

namespace Config

/-- `W(p)` (R6, R23(d)): 8 for NATIVE and REMOTE ports, 32 for the WIDE port. -/
def width : Kind → Nat
  | .native => 8
  | .remote => 8
  | .wide => 32

/-- `dir_inv(p)` (R6, R28): 1 when the port's direction register stores 0 for output. -/
def dirInv : Kind → Bool
  | .native => false
  | .remote => true
  | .wide => false

/-- `PULL_LEVEL` (R6, R30): the physical bit read from an undriven input with pull-up enabled. -/
def pullLevel : Bool := true

/-- `draw()` (R9, R30): the level read on line `(p, b)` when it floats or is contended, at the `n`-th sample.
A free value (U2, U3): chosen by the environment under no law, so it has no body. -/
opaque freeLevel : Nat → Nat → Nat → Bool

/-- The byte the remote device returns in a slot whose received byte is ignored (R152, R157): transaction, slot.
A free value: the spec says nothing of it and nothing reads it (assumption log 8). -/
opaque freeRx : Nat → Nat → Byte

/-- A line of the example profiles: inverting (R23(c)). -/
def line (port bit : Nat) : Line := ⟨port, bit, true⟩

/-- Fixture P1 (95_test_vectors.md section 2): NATIVE, contiguous port registers. -/
def fixtureP1 : Profile where
  kind := .native
  ports := [0, 1]
  dmap := #v[line 0 0, line 0 1, line 0 2, line 0 3, line 0 4, line 0 5, line 0 6, line 0 7]
  cmap := #v[line 1 0, line 1 1, line 1 2, line 1 3, line 1 4, line 1 5, line 1 6, line 1 7]
  remoteIds := []
  regCap := 0#8
  ctrlWr := 0#8
  ctrlRd := 0#8

/-- Fixture P2: NATIVE, bits scattered across three ports, one run reversed. -/
def fixtureP2 : Profile where
  kind := .native
  ports := [0, 1, 2]
  dmap := #v[line 0 7, line 0 6, line 0 5, line 0 4, line 1 2, line 1 3, line 1 4, line 1 5]
  cmap := #v[line 1 6, line 1 7, line 2 0, line 2 1, line 0 0, line 0 1, line 2 7, line 0 3]
  remoteIds := []
  regCap := 0#8
  ctrlWr := 0#8
  ctrlRd := 0#8

/-- Fixture P3: REMOTE, control lines on port A (0), data lines on port B (1), with the identifiers and control
bytes of 93_implementation_defined.md G1. -/
def fixtureP3 : Profile where
  kind := .remote
  ports := [0, 1]
  dmap := #v[line 1 0, line 1 1, line 1 2, line 1 3, line 1 4, line 1 5, line 1 6, line 1 7]
  cmap := #v[line 0 0, line 0 1, line 0 2, line 0 3, line 0 4, line 0 5, line 0 6, line 0 7]
  remoteIds := [⟨0, 0x00#8, 0x0C#8, 0x12#8⟩, ⟨1, 0x01#8, 0x0D#8, 0x13#8⟩]
  regCap := 0x10#8
  ctrlWr := 0x40#8
  ctrlRd := 0x41#8

/-- Fixture P4: WIDE, `DOFF = 6`, `COFF = 14`. -/
def fixtureP4 : Profile where
  kind := .wide
  ports := [0]
  dmap := #v[line 0 6, line 0 7, line 0 8, line 0 9, line 0 10, line 0 11, line 0 12, line 0 13]
  cmap := #v[line 0 14, line 0 15, line 0 16, line 0 17, line 0 18, line 0 19, line 0 20, line 0 21]
  remoteIds := []
  regCap := 0#8
  ctrlWr := 0#8
  ctrlRd := 0#8

/-- DESIGN CHOICE (assumption log 2), unsafe for a claim that rests on it: the profile of the one concrete
`State.reset`. The spec leaves `PROFILE` open (R6, U9); statements quantify over `State.profile`. -/
def buildProfile : Profile := fixtureP3

end Config

end Sys2Proof
end

