-- ==== Sys2Proof/Syntax.lean ====
section
/-! DEFINITION. The nine commands of 30_encoding.md R83, one constructor per row of the opcode table. Every
operand is the 8 bits of its field, as they stand (R82); the fields a format does not use are ignored (R87) and
are no part of the command. -/

namespace Sys2Proof

/-- A command of the block (R83). -/
inductive Instr where
  /-- PREPIN, `prepareDataBusForInput()` (43_data_bus.md R180). -/
  | prepin
  /-- RDDATA, `readDataBus()` (R181). -/
  | rddata
  /-- DRVDATA, `driveDataBus(value)` (R182). -/
  | drvdata (value : Byte)
  /-- SETCST, `setControlState(bits, mask)` (44_control_lines.md R200). -/
  | setcst (bits mask : Byte)
  /-- SETCDIR, `setControlDirection(bits, mask)` (R204). -/
  | setcdir (bits mask : Byte)
  /-- QPIN, `queryPinState(index)` (R210). -/
  | qpin (index : Byte)
  /-- REV8, `reverseBitOrder(byte)` (40_bit_utilities.md R103). -/
  | rev8 (byte : Byte)
  /-- XRD, `readRegister(id)` (42_remote_port.md R159). -/
  | xrd (id : Byte)
  /-- XWR, `writeRegister(id, byte)` (R160). -/
  | xwr (id byte : Byte)
deriving DecidableEq, Repr

/-- The three formats (R81): which operand fields carry meaning. -/
inductive Format where
  /-- No operand: `A` and `B` ignored. -/
  | n
  /-- One operand in `A`: `B` ignored. -/
  | a
  /-- Two operands. -/
  | ab
deriving DecidableEq, Repr

/-- The format of a command (R83). -/
def Instr.format : Instr → Format
  | .prepin => .n
  | .rddata => .n
  | .drvdata _ => .a
  | .setcst _ _ => .ab
  | .setcdir _ _ => .ab
  | .qpin _ => .a
  | .rev8 _ => .a
  | .xrd _ => .a
  | .xwr _ _ => .ab

end Sys2Proof
end

