-- ==== Sys2Proof/WellFormed.lean ====
section
/-! DEFINITION. What the model takes: a well-formed profile (10_state.md R23, checks (a) to (e)), and a command
whose operands have a meaning on it (R33, U6). -/

namespace Sys2Proof

namespace Profile

/-- The physical bits of the 16 logical lines, data lines first. -/
def lineBits (pf : Profile) : List (Nat × Nat) :=
  (pf.dmap.toList ++ pf.cmap.toList).map fun l => (l.port, l.bit)

/-- R23(a): every line is on a port of `PORTS`, at a bit below the port's width. -/
def linesOnPorts (pf : Profile) : Bool :=
  (pf.dmap.toList ++ pf.cmap.toList).all fun l => pf.ports.contains l.port && decide (l.bit < Config.width pf.kind)

/-- R23(b): the 16 physical bits are pairwise distinct. -/
def linesDistinct (pf : Profile) : Bool := decide pf.lineBits.Nodup

/-- R23(c): every line is inverting. -/
def linesInverting (pf : Profile) : Bool := (pf.dmap.toList ++ pf.cmap.toList).all (·.pol)

/-- `PORTS` is a finite set (R22): listed once each, in ascending order. -/
def portsAscending (pf : Profile) : Bool := decide (pf.ports.Pairwise (· < ·))

/-- R23(d), R133: NATIVE has one or more ports, REMOTE one or two, WIDE exactly port 0. -/
def portsOfKind (pf : Profile) : Bool :=
  match pf.kind with
  | .native => !pf.ports.isEmpty
  | .remote => !pf.ports.isEmpty && decide (pf.ports.length ≤ 2)
  | .wide => pf.ports == [0]

/-- Every remote register identifier of the profile, `REG_CAP` first. -/
def allIds (pf : Profile) : List Byte :=
  pf.regCap :: pf.remoteIds.flatMap fun r => [r.regDir, r.regPue, r.regPort]

/-- R23(e): on REMOTE every port has its identifiers, all identifiers are pairwise distinct, and
`CTRL_WR != CTRL_RD`. -/
def idsDistinct (pf : Profile) : Bool :=
  match pf.kind with
  | .remote => (pf.remoteIds.map (·.port) == pf.ports) && decide pf.allIds.Nodup && decide (pf.ctrlWr ≠ pf.ctrlRd)
  | _ => true

/-- A profile is well formed when all of R23 holds. -/
def wf (pf : Profile) : Bool :=
  pf.linesOnPorts && pf.linesDistinct && pf.linesInverting && pf.portsAscending && pf.portsOfKind && pf.idsDistinct

end Profile

/-- A command that the model accepts on a profile. Every byte is a legal operand (60_exceptions.md R222) but for
the identifier of XRD and XWR on REMOTE, which must be one R33 gives a meaning; `REG_CAP` is never written. -/
def Instr.wf (pf : Profile) : Instr → Bool
  | .xrd id => pf.kind != .remote || pf.allIds.contains id
  | .xwr id _ => pf.kind != .remote || (pf.allIds.contains id && id != pf.regCap)
  | .prepin => true
  | .rddata => true
  | .drvdata _ => true
  | .setcst _ _ => true
  | .setcdir _ _ => true
  | .qpin _ => true
  | .rev8 _ => true

end Sys2Proof
end

