-- ==== Sys2Proof/Decode.lean ====
section
/-! DEFINITION. The decoder, total on every 24-bit word (30_encoding.md R80 to R87), and the encoder written from
the same table (R83). -/

namespace Sys2Proof

/-- Why a word is no command of R83. -/
inductive DecodeError where
  /-- Opcodes 0x09 to 0xFF are reserved (R85). Raised by `decode`; `step` gives such a word the effect of R85. -/
  | reservedOpcode (op : Byte)
deriving DecidableEq, Repr

/-- The field `OP`, bits 23:16 (R80). -/
def opField (w : CommandWord) : Byte := w.extractLsb' 16 8

/-- The field `A`, bits 15:8 (R80). -/
def aField (w : CommandWord) : Byte := w.extractLsb' 8 8

/-- The field `B`, bits 7:0 (R80). -/
def bField (w : CommandWord) : Byte := w.extractLsb' 0 8

/-- `word = OP ++ A ++ B` (R80). -/
def packWord (op a b : Byte) : CommandWord := op ++ a ++ b

/-- The command of an opcode and its two operand bytes (R83). A field the format does not use is not examined
(R87). -/
def decodeFields (op a b : Byte) : Except DecodeError Instr :=
  match op.toNat with
  | 0x00 => .ok .prepin
  | 0x01 => .ok .rddata
  | 0x02 => .ok (.drvdata a)
  | 0x03 => .ok (.setcst a b)
  | 0x04 => .ok (.setcdir a b)
  | 0x05 => .ok (.qpin a)
  | 0x06 => .ok (.rev8 a)
  | 0x07 => .ok (.xrd a)
  | 0x08 => .ok (.xwr a b)
  | _ => .error (.reservedOpcode op)

/-- The command a word stands for, or why it stands for none. -/
def decode (w : CommandWord) : Except DecodeError Instr := decodeFields (opField w) (aField w) (bField w)

/-- The opcode of a command (R83). -/
def Instr.opcode : Instr → Byte
  | .prepin => 0x00#8
  | .rddata => 0x01#8
  | .drvdata _ => 0x02#8
  | .setcst _ _ => 0x03#8
  | .setcdir _ _ => 0x04#8
  | .qpin _ => 0x05#8
  | .rev8 _ => 0x06#8
  | .xrd _ => 0x07#8
  | .xwr _ _ => 0x08#8

/-- The operand byte in field `A`; 0 where the format does not use the field. -/
def Instr.operandA : Instr → Byte
  | .prepin => 0#8
  | .rddata => 0#8
  | .drvdata v => v
  | .setcst bits _ => bits
  | .setcdir bits _ => bits
  | .qpin i => i
  | .rev8 x => x
  | .xrd id => id
  | .xwr id _ => id

/-- The operand byte in field `B`; 0 where the format does not use the field. -/
def Instr.operandB : Instr → Byte
  | .prepin => 0#8
  | .rddata => 0#8
  | .drvdata _ => 0#8
  | .setcst _ mask => mask
  | .setcdir _ mask => mask
  | .qpin _ => 0#8
  | .rev8 _ => 0#8
  | .xrd _ => 0#8
  | .xwr _ v => v

/-- The word of a command, ignored fields 0 (R83). -/
def encode (i : Instr) : CommandWord := packWord i.opcode i.operandA i.operandB

/-- The command the decoder reads from a word numbered as `spec/opcode_table.json` numbers it. The command word
is presented whole and has no byte order (R57), so bit `k` of the table is bit `k` of the word. Every row has 24
bits; a longer word is no command word. -/
def decodeTableWord (nbits w : Nat) : Option Instr :=
  if nbits ≤ 24 then
    match decode (BitVec.ofNat 24 (w % 2 ^ nbits)) with
    | .ok i => some i
    | .error _ => none
  else none

end Sys2Proof
end

