-- ==== Sys2Proof/Machine/State.lean ====
section
/-! DEFINITION. The state of the machine (10_state.md), plain data, and the machine right after reset (R41). -/

namespace Sys2Proof.Machine

/-- Why the machine stops with a fault: never. "No runtime error type exists in this layer"
(60_exceptions.md R220), so the type has no constructor. -/
inductive Fault
deriving DecidableEq, Repr

/-- Why the model gives no next state. -/
inductive Refusal where
  /-- An instruction with no meaning yet. Raised by an arm of `exec`; safe. -/
  | notModelled (mnemonic : String)
  /-- The state is no instance of one well-formed build: the profile is ill formed (R23) or the registers are not
  those of its ports. "Refused before any step" (R221, U8). Raised by `step`; safe. -/
  | illFormedBuild
  /-- XRD names a remote register identifier the spec gives no meaning (R33, U6: `refuse`). Raised by `execXrd`
  on REMOTE; safe. -/
  | readOfUnspecifiedId (id : Byte)
  /-- XWR names `REG_CAP` or an identifier the spec gives no meaning (R33, U6: `refuse`). Raised by `execXwr` on
  REMOTE; safe. -/
  | writeOfUnspecifiedId (id : Byte)
deriving DecidableEq, Repr

/-- The two agents that step inside the block (R20). -/
inductive Agent where
  /-- The command executor. -/
  | main
  /-- The pin-state-change notification handler, REMOTE only. -/
  | hnd
deriving DecidableEq, Repr

/-- `EXT(p, b)` (R31): what hardware outside the block puts on a line. -/
inductive Drive where
  /-- `Z`: nothing outside drives the line. -/
  | z
  /-- The line is driven to a physical level. -/
  | driven (level : Bool)
deriving DecidableEq, Repr

/-- What ENV lets a serial transaction do at this step (42_remote_port.md R158). -/
inductive Response where
  /-- The remote device responds and the transaction completes. -/
  | completes
  /-- The transaction waits at byte `slot` of its frame. `landed`: where it waits at byte 2 of a write, whether
  the remote register has taken the new content (U5, D30). -/
  | stalls (slot : Fin 3) (landed : Bool)
deriving DecidableEq, Repr

/-- A line that something outside the block drives (R31). -/
structure ExtDrive where
  port : Nat
  bit : Nat
  level : Bool
deriving DecidableEq, Repr

/-- New content that the environment gives the bits of a register that no logical line maps to (R40). -/
structure ForeignWrite where
  reg : Reg
  port : Nat
  value : Word32
deriving DecidableEq, Repr

/-- ENV's inputs at one step (R20). `ext`, `capture`, `response` and `turn` are levels; `notify`, `foreign` and
`reset` are events. -/
structure Env where
  /-- The external drive; a line that is not listed is `Z` (R31). -/
  ext : List ExtDrive
  /-- The content of the capture register (R34). -/
  capture : Byte
  /-- Whether the remote device responds (R158). -/
  response : Response
  /-- Who goes first when both agents are ready (R163). -/
  turn : Agent
  /-- The pin-state-change notification (R226). -/
  notify : Bool
  /-- Changes to unmapped bits, taken between two commands (R40). -/
  foreign : List ForeignWrite
  /-- Reset (70_reset_and_hazards.md R250). -/
  reset : Bool
deriving DecidableEq, Repr

/-- The three storage registers of a port of width `w` (R26). -/
structure Regs (w : Nat) where
  out : BitVec w
  dir : BitVec w
  pue : BitVec w
deriving DecidableEq, Repr

/-- The register space of the build (20_memory.md R50): the 8-bit ports of a NATIVE or REMOTE build by port id,
ids strictly rising, or the one 32-bit port, id 0, of a WIDE build. Exactly the ports that exist are listed. -/
inductive Memory where
  | bytes (ports : List (Nat × Regs 8))
  | wide (regs : Regs 32)
deriving DecidableEq, Repr

/-- The synchronous serial port controller (R38). Its fields mean something only while `busy`; when it is not,
`sel` is deasserted. -/
structure Sspc where
  /-- `SEL`: true = asserted. -/
  sel : Bool
  /-- `BUSY`. -/
  busy : Bool
  /-- `OWNER`. -/
  owner : Agent
  /-- The shift register: the byte being exchanged. -/
  shift : Byte
  /-- The model's own field: the bytes sent whole since `SEL` was last asserted (R89). -/
  sent : List Byte
deriving DecidableEq, Repr

/-- The state of the machine. -/
structure State where
  /-- `PROFILE` (R22): the constant of the build; no step changes it (R24). -/
  profile : Profile
  /-- The port registers (R26, R33). -/
  mem : Memory
  /-- `OP` (R35). -/
  op : Byte
  /-- `A` (R35). -/
  a : Byte
  /-- `B` (R35). -/
  b : Byte
  /-- `RES` (R35, R84). -/
  res : Byte
  /-- A command is in progress (R41, R80). -/
  active : Bool
  /-- `USEQ` (R36). -/
  useq : Nat
  /-- `T` (R37). -/
  t : Byte
  /-- `X[p]`: the port values read so far by the command in progress (43_data_bus.md R181), newest first, each
  zero-extended. -/
  samples : List (Nat × Word32)
  /-- The serial controller (R38). -/
  sspc : Sspc
  /-- `HPEND` (R226). -/
  hpend : Bool
  /-- `HDATA` (R162). -/
  hdata : Byte
  /-- The command words the caller has presented and the block has not accepted, oldest first (R80). -/
  cmds : List CommandWord
  /-- ENV's inputs at this step. -/
  env : Env
  /-- ENV's inputs at the next steps, the next one first. -/
  script : List Env
  /-- How many samples and transactions have drawn on the free values so far. -/
  drawCount : Nat
deriving DecidableEq, Repr

/-- DESIGN CHOICE (assumption log 6): inputs of an environment that drives nothing, responds, and notifies
nothing. -/
def Env.quiet : Env where
  ext := []
  capture := 0#8
  response := .completes
  turn := .main
  notify := false
  foreign := []
  reset := false

/-- The controller when no transaction is in progress (R41); the other fields are dead (assumption log 4). -/
def Sspc.idle : Sspc where
  sel := false
  busy := false
  owner := .main
  shift := 0#8
  sent := []

/-- DESIGN CHOICE (assumption log 3): the registers of a profile's ports, all 0. -/
def Memory.zero (pf : Profile) : Memory :=
  match pf.kind with
  | .wide => .wide ⟨0#32, 0#32, 0#32⟩
  | _ => .bytes (pf.ports.map fun p => (p, ⟨0#8, 0#8, 0#8⟩))

/-- The machine right after reset, for a profile and the argument `INIT` (R41, R251): idle, `BUSY = 0`, `SEL`
deasserted, `HPEND = 0`, the port registers as `INIT` says; the dead latches 0 (assumption log 4). -/
def State.resetOf (pf : Profile) (init : Memory) : State where
  profile := pf
  mem := init
  op := 0#8
  a := 0#8
  b := 0#8
  res := 0#8
  active := false
  useq := 0
  t := 0#8
  samples := []
  sspc := Sspc.idle
  hpend := false
  hdata := 0#8
  cmds := []
  env := Env.quiet
  script := []
  drawCount := 0

/-- The machine right after reset, for the profile of assumption log 2 and registers of log 3. -/
def State.reset : State := State.resetOf Config.buildProfile (Memory.zero Config.buildProfile)

end Sys2Proof.Machine
end

