-- ==== Sys2Proof/Machine/Operands.lean ====
section
/-! DEFINITION. The masked register translator's fragment functions (41_profile_translation.md R120 to R124,
R130): how a logical byte falls on a physical port of width `w`, and back. -/

namespace Sys2Proof.Machine

/-- The eight logical bit positions, in ascending order. -/
def positions : List (Fin 8) := [0, 1, 2, 3, 4, 5, 6, 7]

/-- The vector of width `w` whose bit `b` is `f b`. -/
def ofBits : (w : Nat) → (Nat → Bool) → BitVec w
  | 0, _ => 0#0
  | w + 1, f => BitVec.cons (f w) (ofBits w f)

/-- `r[b] <- v`. -/
def setBit {w : Nat} (r : BitVec w) (b : Nat) (v : Bool) : BitVec w :=
  if v then r ||| (1#w <<< b) else r &&& ~~~(1#w <<< b)

/-- The loop shared by R120, R121 and R122: `r <- 0`, then for every logical position `i` whose line is on port
`p`, `r[t.bit] <- f i t`. -/
def spread {w : Nat} (map : LineMap) (p : Nat) (f : Fin 8 → Line → Bool) : BitVec w :=
  positions.foldl (fun r i => if map[i].port = p then setBit r map[i].bit (f i map[i]) else r) 0#w

/-- `scatter(map, v, p)` (R120): the port value of logical byte `v` on port `p`. The one place where polarity is
applied on the way out (R135). -/
def scatter {w : Nat} (map : LineMap) (v : Byte) (p : Nat) : BitVec w :=
  spread map p fun i l => v.getLsbD i.val ^^ l.pol

/-- `smask(map, m, p)` (R121): the port mask of logical mask `m` on port `p`. -/
def smask {w : Nat} (map : LineMap) (m : Byte) (p : Nat) : BitVec w :=
  spread map p fun i _ => m.getLsbD i.val

/-- `sdir(map, d, p)` (R122): the direction-register value of logical direction byte `d` (1 = output) on port
`p`, in the port's own encoding `dir_inv`. -/
def sdir {w : Nat} (dirInv : Bool) (map : LineMap) (d : Byte) (p : Nat) : BitVec w :=
  spread map p fun i _ => d.getLsbD i.val ^^ dirInv

/-- `gather(map, X)` (R123): the logical byte read from a family of port values. The one place where polarity is
applied on the way in (R135). -/
def gather {w : Nat} (map : LineMap) (x : Nat → BitVec w) : Byte :=
  positions.foldl (fun v i => setBit v i.val ((x map[i].port).getLsbD map[i].bit ^^ map[i].pol)) 0#8

/-- Whether logical mask `m` selects a line of `map` on port `p`. -/
def touches (map : LineMap) (m : Byte) (p : Nat) : Bool :=
  positions.any fun i => m.getLsbD i.val && map[i].port == p

/-- `aff(map, m)` (R124): the affected ports of logical mask `m`, in ascending order. -/
def aff (pf : Profile) (map : LineMap) (m : Byte) : List Nat := pf.ports.filter (touches map m)

/-- `DMASK(p)` (R121). -/
def dataMask {w : Nat} (pf : Profile) (p : Nat) : BitVec w := smask pf.dmap 0xFF#8 p

/-- `CMASK(p)` (R121). -/
def controlMask {w : Nat} (pf : Profile) (p : Nat) : BitVec w := smask pf.cmap 0xFF#8 p

end Sys2Proof.Machine
end

