-- ==== Sys2Proof/Machine/Flags.lean ====
section
/-! DEFINITION. The block has no flags, condition codes or status bits (10_state.md R39): the only value a command
returns is `RES`. This file holds how a result is coded in it (30_encoding.md R84). -/

namespace Sys2Proof.Machine

/-- A boolean result: 0x01 for true, 0x00 for false (R84). -/
def boolByte (v : Bool) : Byte := if v then 0x01#8 else 0x00#8

/-- What a command returns when it completes. -/
inductive Result where
  /-- A command with no return value returns 0x00 (R84). -/
  | none
  /-- RDDATA: the logical data byte of the sampled ports (R181). -/
  | dataByte
  /-- QPIN: the logical level of control line `C(i)` (R210). -/
  | pin (i : Fin 8)
  /-- XRD: the byte the remote device returned (R159). -/
  | received
deriving DecidableEq, Repr

/-- The sampled value of port `p`, the newest if there are several; a port that was not sampled has none and
reads 0 (no result asks for one). -/
def sampleOf (samples : List (Nat × Word32)) (p : Nat) : Word32 := (samples.lookup p).getD 0#32

/-- The 8 bits of `RES`, from the ports sampled and the byte received last. -/
def Result.eval (pf : Profile) (samples : List (Nat × Word32)) (rx : Byte) : Result → Byte
  | .none => 0x00#8
  | .dataByte => gather pf.dmap (sampleOf samples)
  | .pin i => boolByte ((sampleOf samples pf.cmap[i].port).getLsbD pf.cmap[i].bit ^^ pf.cmap[i].pol)
  | .received => rx

end Sys2Proof.Machine
end

