-- ==== Sys2Proof/Machine/Ops.lean ====
section
/-! DEFINITION. The named operations over the registers and the serial link, shared by every command: the masked
update and the primitives of 20_memory.md R51 to R54, the line levels (10_state.md R30), the dispatch `MW`/`RD` by
kind (41_profile_translation.md R128), one transaction (42_remote_port.md R152), how a command of each kind steps
(20_memory.md R59), and what the environment does at a step. The block has no exception to take and none to return
from (60_exceptions.md R230, R231). -/

namespace Sys2Proof.Machine

/-! ## Registers -/

/-- The content of one register of a port. -/
def Regs.get {w : Nat} (g : Regs w) : Reg → BitVec w
  | .out => g.out
  | .dir => g.dir
  | .pue => g.pue

/-- Writing one register of a port; the other two are distinct storage (R26). -/
def Regs.set {w : Nat} (g : Regs w) (r : Reg) (v : BitVec w) : Regs w :=
  match r with
  | .out => { g with out := v }
  | .dir => { g with dir := v }
  | .pue => { g with pue := v }

/-- `register = (register & ~portMask) | (portValue & portMask)` (R52). -/
def merge {w : Nat} (old pm pv : BitVec w) : BitVec w := (old &&& ~~~pm) ||| (pv &&& pm)

/-- The masked update of one register of a port (R52, R126). -/
def Regs.masked {w : Nat} (g : Regs w) (r : Reg) (pm pv : BitVec w) : Regs w := g.set r (merge (g.get r) pm pv)

/-- The 8-bit port `p`. A port that the build does not have reads as 0; `step` refuses such a state before any
access (assumption log 20). -/
def Memory.port8 (m : Memory) (p : Nat) : Regs 8 :=
  match m with
  | .bytes ps => (ps.lookup p).getD ⟨0#8, 0#8, 0#8⟩
  | .wide _ => ⟨0#8, 0#8, 0#8⟩

/-- The one 32-bit port of a WIDE build (assumption log 20 on other builds). -/
def Memory.port32 (m : Memory) : Regs 32 :=
  match m with
  | .bytes _ => ⟨0#32, 0#32, 0#32⟩
  | .wide g => g

/-- Changing the 8-bit port `p` and no other. -/
def Memory.modify8 (m : Memory) (p : Nat) (f : Regs 8 → Regs 8) : Memory :=
  match m with
  | .bytes ps => .bytes (ps.map fun e => if e.1 = p then (e.1, f e.2) else e)
  | .wide g => .wide g

/-- Changing the 32-bit port. -/
def Memory.modify32 (m : Memory) (f : Regs 32 → Regs 32) : Memory :=
  match m with
  | .bytes ps => .bytes ps
  | .wide g => .wide (f g)

/-- The canonical form of the register space: 8-bit ports by strictly rising id. -/
def Memory.wf : Memory → Bool
  | .bytes ps => decide ((ps.map (·.1)).Pairwise (· < ·))
  | .wide _ => true

/-- The register space holds exactly the ports of the profile (R22, R26). -/
def Memory.fits (m : Memory) (pf : Profile) : Bool :=
  match m, pf.kind with
  | .wide _, .wide => true
  | .bytes ps, .native => ps.map (·.1) == pf.ports
  | .bytes ps, .remote => ps.map (·.1) == pf.ports
  | _, _ => false

/-- Bit `b` of register `r` of port `p`: the one view of all registers that statements use. A bit the register
does not have is false. -/
def Memory.bit (m : Memory) (r : Reg) (p b : Nat) : Bool :=
  match m with
  | .bytes ps => (((ps.lookup p).getD ⟨0#8, 0#8, 0#8⟩).get r).getLsbD b
  | .wide g => p == 0 && (g.get r).getLsbD b

/-- The state is an instance of one well-formed build (R23, R221). -/
def State.buildOk (s : State) : Bool := s.profile.wf && s.mem.fits s.profile

/-! ## Line levels -/

/-- `is_out(p, b)` (R28) from the direction bit. -/
def isOut (dirInv dirBit : Bool) : Bool := dirBit ^^ dirInv

/-- `EXT(p, b)` (R31). -/
def Env.drive (e : Env) (p b : Nat) : Drive :=
  match e.ext.find? fun x => x.port == p && x.bit == b with
  | some x => .driven x.level
  | none => .z

/-- `level(p, b)` (R30): an output reads its latch unless something outside drives the opposite level
(contention); an input reads what drives it, else the pull-up's level, else it floats. `draw` is the free value
of a contended or floating line. -/
def lineLevel (out latch pullUp : Bool) (ext : Drive) (draw : Bool) : Bool :=
  match out, ext with
  | true, .z => latch
  | true, .driven v => if v = latch then latch else draw
  | false, .driven v => v
  | false, .z => if pullUp then Config.pullLevel else draw

/-- `IN[p]` (R30) at the `n`-th sample. -/
def portLevels {w : Nat} (dirInv : Bool) (g : Regs w) (e : Env) (n p : Nat) : BitVec w :=
  ofBits w fun b =>
    lineLevel (isOut dirInv (g.dir.getLsbD b)) (g.out.getLsbD b) (g.pue.getLsbD b) (e.drive p b)
      (Config.freeLevel n p b)

/-- `IN[p]` of an 8-bit port now. -/
def State.levels8 (s : State) (p : Nat) : Byte :=
  portLevels (Config.dirInv s.profile.kind) (s.mem.port8 p) s.env s.drawCount p

/-- `IN[0]` of the 32-bit port now. -/
def State.levels32 (s : State) : Word32 :=
  portLevels (Config.dirInv s.profile.kind) s.mem.port32 s.env s.drawCount 0

/-! ## NATIVE and WIDE primitives -/

/-- Keeping a sampled port value for the command's result. Every sample is a fresh draw. -/
def State.keepSample (s : State) (p : Nat) (v : Word32) : State :=
  { s with samples := (p, v) :: s.samples, drawCount := s.drawCount + 1 }

/-- `MaskedWrite(p, r, pm, pv)` on a NATIVE port (R52). -/
def maskedWrite (r : Reg) (p : Nat) (pm pv : Byte) (s : State) : State :=
  { s with mem := s.mem.modify8 p fun g => g.masked r pm pv }

/-- `PortRead(p, IN)` on a NATIVE port (R51). -/
def portReadIn (p : Nat) (s : State) : State := s.keepSample p ((s.levels8 p).setWidth 32)

/-- `WPUT`, `WDIR` and `WPULL` (R53), by the register each one writes. -/
def wideMasked (r : Reg) (m v : Word32) (s : State) : State :=
  { s with mem := s.mem.modify32 fun g => g.masked r m v }

/-- `WPUT(m, v)` (R53). -/
def wput (m v : Word32) (s : State) : State := wideMasked .out m v s

/-- `WDIR(m, v)` (R53). -/
def wdir (m v : Word32) (s : State) : State := wideMasked .dir m v s

/-- `WPULL(m, v)` (R53). -/
def wpull (m v : Word32) (s : State) : State := wideMasked .pue m v s

/-- `WIN()` (R53): the sample of port `p` is the 32 line levels. -/
def win (p : Nat) (s : State) : State := s.keepSample p s.levels32

/-! ## The serial link -/

/-- Read or write. -/
inductive Rw where
  | read
  | write
deriving DecidableEq, Repr

/-- What one transaction is to do (R152). -/
structure Request where
  rw : Rw
  id : Byte
  wdata : Byte
deriving DecidableEq, Repr

/-- The three bytes the block sends (30_encoding.md R89): control byte, identifier, and the data byte of a write
or the filler of a read. -/
def Request.frame (q : Request) (pf : Profile) : List Byte :=
  match q.rw with
  | .write => [pf.ctrlWr, q.id, q.wdata]
  | .read => [pf.ctrlRd, q.id, 0x00#8]

/-- The class of a remote register identifier (R33). -/
inductive RemoteReg where
  | dir (p : Nat)
  | pue (p : Nat)
  | port (p : Nat)
  | capture
deriving DecidableEq, Repr

/-- The classes of one port's three identifiers. -/
def RemoteIds.classes (r : RemoteIds) : List (Byte × RemoteReg) :=
  [(r.regDir, .dir r.port), (r.regPue, .pue r.port), (r.regPort, .port r.port)]

/-- The class an identifier names on this profile; none for one the spec gives no meaning (R33, U6). -/
def remoteClass (pf : Profile) (id : Byte) : Option RemoteReg :=
  ((pf.regCap, .capture) :: pf.remoteIds.flatMap RemoteIds.classes).lookup id

/-- What a read of identifier `id` returns (R33, R154). -/
def remRead (id : Byte) (s : State) : Byte :=
  match remoteClass s.profile id with
  | some (.dir p) => (s.mem.port8 p).dir
  | some (.pue p) => (s.mem.port8 p).pue
  | some (.port p) => s.levels8 p
  | some .capture => s.env.capture
  | none => Config.freeRx s.drawCount 2

/-- What a write of identifier `id` does to the registers (R33, R155): all 8 bits, unmasked. -/
def remWrite (id v : Byte) (s : State) : State :=
  match remoteClass s.profile id with
  | some (.dir p) => { s with mem := s.mem.modify8 p fun g => g.set .dir v }
  | some (.pue p) => { s with mem := s.mem.modify8 p fun g => g.set .pue v }
  | some (.port p) => { s with mem := s.mem.modify8 p fun g => g.set .out v }
  | some .capture => s
  | none => s

/-- The byte the block receives in slot 2: the register read, or on a write a byte that is ignored (R157). -/
def Request.received (q : Request) (s : State) : Byte :=
  match q.rw with
  | .read => remRead q.id s
  | .write => Config.freeRx s.drawCount 2

/-- The bytes the block receives in the three slots (R152): those of slots 0 and 1 are ignored. -/
def Request.receivedBytes (q : Request) (s : State) : List Byte :=
  [Config.freeRx s.drawCount 0, Config.freeRx s.drawCount 1, q.received s]

/-- What the transaction does to the remote registers, at the exchange of byte 2 (R152, D30). -/
def Request.effect (q : Request) (s : State) : State :=
  match q.rw with
  | .read => s
  | .write => remWrite q.id q.wdata s

/-- The outcome of giving an agent a step for its transaction. -/
inductive LinkStep where
  /-- The transaction completed and returned a byte. -/
  | done (rx : Byte) (s : State)
  /-- The agent waits: another transaction holds the link (R166), or the remote device does not respond (R158). -/
  | waiting (s : State)

/-- The byte of the frame at which a transaction waits. One that has begun does not go back. -/
def stallSlot (l : Sspc) (slot : Nat) : Nat := if l.busy then max l.sent.length slot else slot

/-- The controller while a transaction of `who` waits at byte `k` of its frame: `SEL` asserted, `BUSY = 1`
(R158). DESIGN CHOICE (assumption log 28): R38 says the shift register holds the byte being exchanged, and not which
of the two directions it shows in a wait; here it holds the byte the block sends. -/
def Sspc.waitingAt (who : Agent) (frame : List Byte) (k : Nat) : Sspc where
  sel := true
  busy := true
  owner := who
  shift := frame.getD k 0x00#8
  sent := frame.take k

/-- The controller after a transaction of `who`: `SEL` deasserted, `BUSY = 0` (R152), the whole frame sent. The
shift register, which means nothing while `BUSY = 0` (R38), holds the byte received last (assumption log 28). -/
def Sspc.finished (who : Agent) (frame : List Byte) (rx : Byte) : Sspc where
  sel := false
  busy := false
  owner := who
  shift := rx
  sent := frame

/-- One step of a transaction of agent `who` (R152): it needs the link free or already its own (R166); if the
remote device responds the whole transaction takes effect in this step, else it waits with the link held. -/
def transact (who : Agent) (q : Request) (s : State) : LinkStep :=
  if s.sspc.busy = true ∧ s.sspc.owner ≠ who then .waiting s
  else
    match s.env.response with
    | .completes =>
      .done (q.received s)
        { q.effect s with
          sspc := Sspc.finished who (q.frame s.profile) (q.received s), drawCount := s.drawCount + 1 }
    | .stalls slot landed =>
      let k := stallSlot s.sspc slot.val
      let s' := if landed = true ∧ k = 2 then q.effect s else s
      .waiting { s' with sspc := Sspc.waitingAt who (q.frame s.profile) k }

/-! ## Accesses, transactions and how a command steps -/

/-- One access of a command's rule, before the kind decides its form: `MW(p, r, pm, pv)` or `RD(p)` (R128). -/
inductive Access (w : Nat) where
  | mw (r : Reg) (p : Nat) (pm pv : BitVec w)
  | rd (p : Nat)
deriving DecidableEq, Repr

/-- `MW(p, r, pm, pv)`: no access under a zero mask (R129). -/
def mwList {w : Nat} (r : Reg) (p : Nat) (pm pv : BitVec w) : List (Access w) :=
  if pm = 0#w then [] else [.mw r p pm pv]

/-- One micro-operation of a REMOTE command: one transaction of MAIN. -/
inductive Xact where
  /-- The read half of `RemRMW`: `T <- RemRead(id)` (R161). -/
  | readT (id : Byte)
  /-- The write half: `RemWrite(id, (T & ~pm) | (pv & pm))`. -/
  | writeT (id : Byte) (pm pv : Byte)
  /-- `X[p] <- RemRead(id)`. -/
  | sample (p : Nat) (id : Byte)
  /-- XRD's `RES <- RemRead(id)` (R159). -/
  | fetch (id : Byte)
  /-- XWR's `RemWrite(id, v)` (R160). -/
  | store (id v : Byte)
deriving DecidableEq, Repr

/-- The identifiers of port `p`; a port with none does not occur in a well-formed profile (R23(e)). -/
def idsOf (pf : Profile) (p : Nat) : RemoteIds :=
  (pf.remoteIds.find? fun r => r.port == p).getD ⟨p, 0#8, 0#8, 0#8⟩

/-- The identifier through which register `r` of port `p` is written (R128). -/
def regId (pf : Profile) (r : Reg) (p : Nat) : Byte :=
  match r with
  | .out => (idsOf pf p).regPort
  | .dir => (idsOf pf p).regDir
  | .pue => (idsOf pf p).regPue

/-- The transactions of one access on REMOTE: a masked write is always `RemRMW`, read then write (R128, D16);
a level read is `RemRead(REG_PORT(p))`. -/
def Access.xacts (pf : Profile) : Access 8 → List Xact
  | .mw r p pm pv => [.readT (regId pf r p), .writeT (regId pf r p) pm pv]
  | .rd p => [.sample p (regId pf .out p)]

/-- What a transaction of MAIN asks of the link. -/
def Xact.request (x : Xact) (s : State) : Request :=
  match x with
  | .readT id => ⟨.read, id, 0#8⟩
  | .writeT id pm pv => ⟨.write, id, merge s.t pm pv⟩
  | .sample _ id => ⟨.read, id, 0#8⟩
  | .fetch id => ⟨.read, id, 0#8⟩
  | .store id v => ⟨.write, id, v⟩

/-- Where MAIN puts the byte a completed transaction returned. -/
def Xact.keep (x : Xact) (rx : Byte) (s : State) : State :=
  match x with
  | .readT _ => { s with t := rx }
  | .sample p _ => { s with samples := (p, rx.setWidth 32) :: s.samples }
  | .writeT _ _ _ => s
  | .fetch _ => s
  | .store _ _ => s

/-- A command completes: `RES` is written, once, at the end (R35), and no command is in progress. -/
def State.complete (s : State) (res : Byte) : State := { s with res := res, active := false, samples := [] }

/-- `USEQ` advances by one; the command completes when it reaches the number of micro-operations (R36). -/
def State.advance (s : State) (len : Nat) (res : Byte) : State :=
  if s.useq + 1 < len then { s with useq := s.useq + 1 } else { s with useq := s.useq + 1 }.complete res

/-- One access on a NATIVE port. -/
def nativeAccess (s : State) : Access 8 → State
  | .mw r p pm pv => maskedWrite r p pm pv s
  | .rd p => portReadIn p s

/-- One access on the WIDE port. -/
def wideAccess (s : State) : Access 32 → State
  | .mw .out _ pm pv => wput pm pv s
  | .mw .dir _ pm pv => wdir pm pv s
  | .mw .pue _ pm pv => wpull pm pv s
  | .rd p => win p s

/-- NATIVE: the whole command is one indivisible step (R59). -/
def runNative (as : List (Access 8)) (res : Result) (s : State) : State :=
  let s' := as.foldl nativeAccess s
  s'.complete (res.eval s'.profile s'.samples 0x00#8)

/-- WIDE: each primitive is one step (R59); the command is at its `USEQ`-th one. A command with no primitive
completes at once. -/
def runWide (as : List (Access 32)) (res : Result) (s : State) : State :=
  match as[s.useq]? with
  | none => s.complete (res.eval s.profile s.samples 0x00#8)
  | some a =>
    let s' := wideAccess s a
    s'.advance as.length (res.eval s'.profile s'.samples 0x00#8)

/-- REMOTE: each transaction is one step (R59); the command is at its `USEQ`-th one. A transaction that waits
leaves `USEQ` where it is. -/
def runRemote (xs : List Xact) (res : Result) (s : State) : State :=
  match xs[s.useq]? with
  | none => s.complete (res.eval s.profile s.samples 0x00#8)
  | some x =>
    match transact .main (x.request s) s with
    | .waiting s' => s'
    | .done rx s' =>
      let s'' := x.keep rx s'
      s''.advance xs.length (res.eval s''.profile s''.samples rx)

/-- The accesses of a command on an 8-bit build and on a WIDE build, and its result. -/
structure Plan where
  narrow : List (Access 8)
  wide : List (Access 32)
  result : Result
deriving DecidableEq, Repr

/-- One step of a command, by the kind of the build (R59, R128). -/
def Plan.run (c : Plan) (s : State) : State :=
  match s.profile.kind with
  | .native => runNative c.narrow c.result s
  | .wide => runWide c.wide c.result s
  | .remote => runRemote (c.narrow.flatMap (Access.xacts s.profile)) c.result s

/-- A command that performs no access on any kind of build completes at once. -/
def Plan.nothing : Plan := ⟨[], [], .none⟩

/-- How many steps the command of a plan takes when nothing makes it wait (70_reset_and_hazards.md R263). -/
def Plan.steps (c : Plan) (pf : Profile) : Nat :=
  match pf.kind with
  | .native => 1
  | .wide => max 1 c.wide.length
  | .remote => max 1 (c.narrow.flatMap (Access.xacts pf)).length

/-- A reserved opcode, or XRD or XWR without a serial controller: completes with `RES <- 0x00`, no access
(30_encoding.md R85, R86). -/
def execReserved (s : State) : State := s.complete 0x00#8

/-! ## What happens around a command -/

/-- A script that has run out: the levels stay, the events are over (assumption log 5). -/
def Env.hold (e : Env) : Env := { e with notify := false, foreign := [], reset := false }

/-- The environment's inputs of the step that begins. -/
def State.nextEnv (s : State) : State :=
  match s.script with
  | [] => { s with env := s.env.hold }
  | e :: es => { s with env := e, script := es }

/-- Reset (R250): no command in progress, `BUSY = 0`, `SEL` deasserted, `HPEND = 0`. No port register is
written; the dead latches keep what they hold (assumption log 18). -/
def State.applyReset (s : State) : State :=
  { s with active := false, hpend := false, sspc := { s.sspc with sel := false, busy := false } }

/-- A notification sets `HPEND`; while it is set further ones are absorbed (R226). Only a REMOTE build has the
input. -/
def State.applyNotify (s : State) : State :=
  if s.env.notify = true ∧ s.profile.kind = .remote then { s with hpend := true } else s

/-- The bits of port `p` that no logical line maps to (R40). -/
def unmapped {w : Nat} (pf : Profile) (p : Nat) : BitVec w := ~~~(dataMask pf p ||| controlMask pf p)

/-- Other users of the host change bits that no logical line maps to (R40). -/
def Memory.foreignWrite (pf : Profile) (m : Memory) (x : ForeignWrite) : Memory :=
  match m with
  | .bytes _ => m.modify8 x.port fun g => g.masked x.reg (unmapped pf x.port) (x.value.setWidth 8)
  | .wide _ => if x.port = 0 then m.modify32 fun g => g.masked x.reg (unmapped pf 0) x.value else m

/-- The foreign changes of this step, between two commands only (R40, R254). -/
def State.applyForeign (s : State) : State :=
  if s.active = true then s else { s with mem := s.env.foreign.foldl (Memory.foreignWrite s.profile) s.mem }

/-- The block accepts the command word `w` (R80): its three bytes are latched and `USEQ` is 0 (R35, R36). -/
def State.accept (s : State) (w : CommandWord) (rest : List CommandWord) : State :=
  { s with
    op := w.extractLsb' 16 8, a := w.extractLsb' 8 8, b := w.extractLsb' 0 8,
    useq := 0, samples := [], active := true, cmds := rest }

end Sys2Proof.Machine
end

