-- ==== Sys2Proof/Machine/BitUtilities.lean ====
section
/-! DEFINITION. The bit-permutation unit (40_bit_utilities.md R100 to R107) and the command REV8 (R103). -/

namespace Sys2Proof.Machine

/-- First stage of R102: nibble swap. -/
def nibbleSwap (x : Byte) : Byte := x.extractLsb' 0 4 ++ x.extractLsb' 4 4

/-- Second stage of R102: swap the two pairs inside each nibble. -/
def pairSwap (x : Byte) : Byte :=
  x.extractLsb' 4 2 ++ x.extractLsb' 6 2 ++ x.extractLsb' 0 2 ++ x.extractLsb' 2 2

/-- Third stage of R102: swap adjacent bits. -/
def bitSwap (x : Byte) : Byte :=
  x.extractLsb' 6 1 ++ x.extractLsb' 7 1 ++ x.extractLsb' 4 1 ++ x.extractLsb' 5 1 ++
    x.extractLsb' 2 1 ++ x.extractLsb' 3 1 ++ x.extractLsb' 0 1 ++ x.extractLsb' 1 1

/-- `rev8(x)` (R101), by the decomposition of R102. -/
def rev8 (x : Byte) : Byte := bitSwap (pairSwap (nibbleSwap x))

/-- `rotl8(x, n)` (R105): left by `n mod 8`. -/
def rotl8 (x : Byte) (n : Nat) : Byte := ofBits 8 fun j => x.getLsbD ((j + 8 - n % 8) % 8)

/-- `rotr8(x, n)` (R105): right by `n mod 8`. -/
def rotr8 (x : Byte) (n : Nat) : Byte := ofBits 8 fun i => x.getLsbD ((i + n) % 8)

/-- `shl(x, n)` (R106), on a byte or a word32: zero fill, 0 for `n` at or above the width (R8). -/
def shl {w : Nat} (x : BitVec w) (n : Nat) : BitVec w := x <<< n

/-- `shr(x, n)` (R106): the logical shift right. -/
def shr {w : Nat} (x : BitVec w) (n : Nat) : BitVec w := x >>> n

/-- REV8 (R103): no register access on any kind of build. -/
def execRev8 (x : Byte) (s : State) : Host.Outcome State Fault Refusal := .next (s.complete (rev8 x))

end Sys2Proof.Machine
end

