-- ==== Sys2Proof/Machine/ControlLines.lean ====
section
/-! DEFINITION. The control line commands (44_control_lines.md R200 to R211). -/

namespace Sys2Proof.Machine

/-- The accesses of SETCST (R200): one masked write of the latch per affected port; none under a zero mask
(R201). -/
def setcstAccesses (w : Nat) (pf : Profile) (bits mask : Byte) : List (Access w) :=
  (aff pf pf.cmap mask).flatMap fun p => mwList .out p (smask pf.cmap mask p) (scatter pf.cmap bits p)

/-- The plan of SETCST. -/
def setcstPlan (pf : Profile) (bits mask : Byte) : Plan :=
  ⟨setcstAccesses 8 pf bits mask, setcstAccesses 32 pf bits mask, .none⟩

/-- SETCST (R200). -/
def execSetcst (bits mask : Byte) (s : State) : Host.Outcome State Fault Refusal :=
  .next ((setcstPlan s.profile bits mask).run s)

/-- The accesses of SETCDIR on NATIVE and REMOTE (R204): per affected port, direction, then pull-ups on exactly
the lines that become inputs (R130, R206). -/
def setcdirAccesses (pf : Profile) (bits mask : Byte) : List (Access 8) :=
  (aff pf pf.cmap mask).flatMap fun p =>
    mwList .dir p (smask pf.cmap mask p) (sdir (Config.dirInv pf.kind) pf.cmap bits p) ++
      mwList .pue p (smask pf.cmap mask p) (smask pf.cmap (~~~bits &&& mask) p)

/-- The primitives of SETCDIR on WIDE (R208): pull-ups off on the future outputs, all masked directions, pull-ups
on for the new inputs; each one omitted when its mask is zero. -/
def setcdirWide (pf : Profile) (bits mask : Byte) : List (Access 32) :=
  mwList .pue 0 (smask pf.cmap (bits &&& mask) 0) 0#32 ++
    mwList .dir 0 (smask pf.cmap mask 0) (sdir (Config.dirInv pf.kind) pf.cmap bits 0) ++
    mwList .pue 0 (smask pf.cmap (~~~bits &&& mask) 0) (smask pf.cmap (~~~bits &&& mask) 0)

/-- The plan of SETCDIR. -/
def setcdirPlan (pf : Profile) (bits mask : Byte) : Plan :=
  ⟨setcdirAccesses pf bits mask, setcdirWide pf bits mask, .none⟩

/-- SETCDIR (R204, R208). -/
def execSetcdir (bits mask : Byte) (s : State) : Host.Outcome State Fault Refusal :=
  .next ((setcdirPlan s.profile bits mask).run s)

/-- The plan of QPIN (R210): one read of the port of the control line the index names; no access for an index
above 7 (R211). -/
def qpinPlan (pf : Profile) (index : Byte) : Plan :=
  if h : index.toNat < 8 then
    ⟨[.rd pf.cmap[index.toNat].port], [.rd pf.cmap[index.toNat].port], .pin ⟨index.toNat, h⟩⟩
  else Plan.nothing

/-- QPIN (R210, R211). -/
def execQpin (index : Byte) (s : State) : Host.Outcome State Fault Refusal :=
  .next ((qpinPlan s.profile index).run s)

end Sys2Proof.Machine
end

