-- ==== Sys2Proof/Machine/DataBus.lean ====
section
/-! DEFINITION. The data bus commands (43_data_bus.md R180 to R182). -/

namespace Sys2Proof.Machine

/-- The accesses of PREPIN (R180): per affected port, direction to input, then pull-ups on. -/
def prepinAccesses (w : Nat) (pf : Profile) : List (Access w) :=
  (aff pf pf.dmap 0xFF#8).flatMap fun p =>
    mwList .dir p (dataMask pf p) (sdir (Config.dirInv pf.kind) pf.dmap 0x00#8 p) ++
      mwList .pue p (dataMask pf p) (dataMask pf p)

/-- The plan of PREPIN. -/
def prepinPlan (pf : Profile) : Plan := ⟨prepinAccesses 8 pf, prepinAccesses 32 pf, .none⟩

/-- PREPIN (R180). -/
def execPrepin (s : State) : Host.Outcome State Fault Refusal := .next ((prepinPlan s.profile).run s)

/-- The accesses of RDDATA (R181): one read of the line levels per affected port. -/
def rddataAccesses (w : Nat) (pf : Profile) : List (Access w) := (aff pf pf.dmap 0xFF#8).map .rd

/-- The plan of RDDATA. -/
def rddataPlan (pf : Profile) : Plan := ⟨rddataAccesses 8 pf, rddataAccesses 32 pf, .dataByte⟩

/-- RDDATA (R181). -/
def execRddata (s : State) : Host.Outcome State Fault Refusal := .next ((rddataPlan s.profile).run s)

/-- The accesses of DRVDATA (R182): per affected port, pull-ups off, direction to output, then the value. -/
def drvdataAccesses (w : Nat) (pf : Profile) (v : Byte) : List (Access w) :=
  (aff pf pf.dmap 0xFF#8).flatMap fun p =>
    mwList .pue p (dataMask pf p) 0#w ++
      mwList .dir p (dataMask pf p) (sdir (Config.dirInv pf.kind) pf.dmap 0xFF#8 p) ++
      mwList .out p (dataMask pf p) (scatter pf.dmap v p)

/-- The plan of DRVDATA. -/
def drvdataPlan (pf : Profile) (v : Byte) : Plan := ⟨drvdataAccesses 8 pf v, drvdataAccesses 32 pf v, .none⟩

/-- DRVDATA (R182). -/
def execDrvdata (v : Byte) (s : State) : Host.Outcome State Fault Refusal :=
  .next ((drvdataPlan s.profile v).run s)

end Sys2Proof.Machine
end

