-- ==== Sys2Proof/Machine/RemotePort.lean ====
section
/-! DEFINITION. The commands XRD and XWR (42_remote_port.md R159, R160), the handler (R162), and the pins of the
serial link (R151). -/

namespace Sys2Proof.Machine

/-- XRD (R159): one transaction on REMOTE, a reserved opcode elsewhere (R86). An identifier that R33 gives no
meaning is refused (U6). -/
def execXrd (id : Byte) (s : State) : Host.Outcome State Fault Refusal :=
  match s.profile.kind with
  | .remote =>
    match remoteClass s.profile id with
    | some _ => .next (runRemote [.fetch id] .received s)
    | none => .refused (.readOfUnspecifiedId id)
  | _ => .next (execReserved s)

/-- XWR (R160): one transaction on REMOTE, a reserved opcode elsewhere (R86). An identifier that R33 gives no
meaning, and `REG_CAP`, are refused (U6). -/
def execXwr (id v : Byte) (s : State) : Host.Outcome State Fault Refusal :=
  match s.profile.kind with
  | .remote =>
    match remoteClass s.profile id with
    | some .capture => .refused (.writeOfUnspecifiedId id)
    | some _ => .next (runRemote [.store id v] .none s)
    | none => .refused (.writeOfUnspecifiedId id)
  | _ => .next (execReserved s)

/-- The handler has a step to take: a request with the link free, or its own transaction in progress (R162,
R166). -/
def State.hndReady (s : State) : Bool :=
  s.profile.kind == .remote && (if s.sspc.busy then s.sspc.owner == .hnd else s.hpend)

/-- The one action of HND (R162): `HDATA <- RemRead(REG_CAP)`, `HPEND <- 0`. -/
def hndStep (s : State) : State :=
  match transact .hnd ⟨.read, s.profile.regCap, 0x00#8⟩ s with
  | .done rx s' => { s' with hdata := rx, hpend := false }
  | .waiting s' => s'

/-- MAIN has something to do: a command in progress or one presented. -/
def State.mainReady (s : State) : Bool := s.active || !s.cmds.isEmpty

/-- HND moves when it can and the environment gives it the turn; it "may" (R162), and with both agents ready either
may go first (R163, assumption log 11). -/
def State.hndMoves (s : State) : Bool := s.hndReady && s.env.turn == .hnd

/-! ## The pins (R151)

The normative level is the byte sequence; no rule outside R151 depends on this part (U17, assumption log 22). -/

/-- The levels of the four pins (R151), true = physical 1: `SEL`, `SCK` and `SDO` are driven by the block, `SDI` by
the remote device. -/
structure Pins where
  sel : Bool
  sck : Bool
  sdo : Bool
  sdi : Bool
deriving DecidableEq, Repr

/-- `SEL` is asserted by driving it to physical 0. -/
def selPin (asserted : Bool) : Bool := !asserted

/-- The bits of a byte in the order they travel, most significant first. -/
def wireBits (x : Byte) : List Bool := [7, 6, 5, 4, 3, 2, 1, 0].map fun i => x.getLsbD i

/-- One bit each way, sent and received: both data lines take it while `SCK` is 0 and are sampled on the rising
edge. -/
def bitWave (v : Bool × Bool) : List Pins := [⟨selPin true, false, v.1, v.2⟩, ⟨selPin true, true, v.1, v.2⟩]

/-- The bits that travel together while bytes are exchanged, each pair a byte sent and the byte received. -/
def exchangeBits (xs : List (Byte × Byte)) : List (Bool × Bool) :=
  xs.flatMap fun x => (wireBits x.1).zip (wireBits x.2)

/-- The pins while bytes are exchanged, then `SCK` idle at 0 and `SEL` deasserted. DESIGN CHOICE (assumption log
22): R151 does not say how the edges of `SEL` stand to those of `SCK` and of the data lines, nor what the data
lines do while `SEL` is deasserted. Here `SEL` is asserted together with the first data bits, before the first
rising edge, and deasserted together with the last falling edge, and the data lines then keep their levels. -/
def exchangeWave (xs : List (Byte × Byte)) : List Pins :=
  let last := (exchangeBits xs).getLastD (false, false)
  (exchangeBits xs).flatMap bitWave ++ [⟨selPin false, false, last.1, last.2⟩]

/-- The pins during one transaction that completes (R152): the frame goes out on `SDO` while the received bytes
come in on `SDI`. -/
def Request.wave (q : Request) (s : State) : List Pins :=
  exchangeWave ((q.frame s.profile).zip (q.receivedBytes s))

/-- What is sampled on a data line: its level at every rising edge of `SCK` while `SEL` is asserted. The device
samples `SDO`, the block samples `SDI`. -/
def sampledBits (line : Pins → Bool) : List Pins → List Bool
  | x :: y :: rest =>
    if x.sck = false ∧ y.sck = true ∧ y.sel = selPin true then line y :: sampledBits line (y :: rest)
    else sampledBits line (y :: rest)
  | _ => []

/-- The shift register (R38) takes one received bit at its low end. -/
def shiftIn (x : Byte) (v : Bool) : Byte := x.extractLsb' 0 7 ++ BitVec.ofBool v

end Sys2Proof.Machine
end

