-- ==== Sys2Proof/Machine/Dispatch.lean ====
section
/-! DEFINITION. One step of a command, one arm per command: on NATIVE the whole command, on WIDE its next
primitive, on REMOTE its next transaction (20_memory.md R59). -/

namespace Sys2Proof.Machine

def exec (i : Instr) (s : State) : Host.Outcome State Fault Refusal :=
  match i with
  | .prepin => Sys2Proof.Machine.execPrepin s
  | .rddata => Sys2Proof.Machine.execRddata s
  | .drvdata value => Sys2Proof.Machine.execDrvdata value s
  | .setcst bits mask => Sys2Proof.Machine.execSetcst bits mask s
  | .setcdir bits mask => Sys2Proof.Machine.execSetcdir bits mask s
  | .qpin index => Sys2Proof.Machine.execQpin index s
  | .rev8 byte => Sys2Proof.Machine.execRev8 byte s
  | .xrd id => Sys2Proof.Machine.execXrd id s
  | .xwr id byte => Sys2Proof.Machine.execXwr id byte s

end Sys2Proof.Machine
end

