-- ==== Sys2Proof/Machine/Step.lean ====
section
/-! DEFINITION. One step of the machine: the environment's inputs are taken, then one agent moves (10_state.md
R20, 42_remote_port.md R163). -/

namespace Sys2Proof.Machine

/-- One step of the command a word stands for; a reserved opcode completes with 0x00 (30_encoding.md R85). -/
def execWord (w : CommandWord) (s : State) : Host.Outcome State Fault Refusal :=
  match decode w with
  | .ok i => exec i s
  | .error _ => .next (execReserved s)

/-- MAIN moves: it goes on with the command in progress, or accepts the caller's next one (R80); with neither it
is idle. DESIGN CHOICE (assumption log 27): a transaction of HND that holds the link keeps MAIN from a transaction
(R158, R166) and from nothing else, so a word is accepted, and a command that needs no transaction completes. -/
def mainStep (s : State) : Host.Outcome State Fault Refusal :=
  if s.active = true then execWord (packWord s.op s.a s.b) s
  else
    match s.cmds with
    | [] => .next s
    | w :: rest => execWord w (s.accept w rest)

/-- The state in which the agents move: the environment's inputs of this step, a notification, and foreign
changes applied. -/
def State.inputs (s : State) : State := s.nextEnv.applyNotify.applyForeign

/-- One step. A state that is no instance of a well-formed build is refused before any step (R221). -/
def step (s : State) : Host.Outcome State Fault Refusal :=
  if s.buildOk = true then
    if s.nextEnv.env.reset = true then .next s.nextEnv.applyReset
    else if s.inputs.hndMoves = true then .next (hndStep s.inputs)
    else mainStep s.inputs
  else .refused .illFormedBuild

/-- The inputs of a step in which MAIN moves and the remote device responds. -/
def Env.granting (e : Env) : Env :=
  { e with response := .completes, turn := .main, notify := false, foreign := [], reset := false }

/-- The state in which `step` accepts and runs exactly the command word `w` next: no command in progress and the
link free, the word at the head of the caller's queue, and the environment giving MAIN the step (assumption log
19). -/
def State.withFetchWord (s : State) (nbits w : Nat) : State :=
  { s with
    cmds := BitVec.ofNat 24 (w % 2 ^ nbits) :: s.cmds
    active := false
    sspc := { s.sspc with sel := false, busy := false }
    script := s.env.granting :: s.script }

end Sys2Proof.Machine
end

