-- ==== Sys2Proof/Machine/Assembler.lean ====
section
/-! DEFINITION. The assembler syntax in which programs are written down (30_encoding.md R92 to R94): one command a
line, as a list of characters, and the pseudo-instructions with their expansions. It affects notation only (D29);
details R92 leaves open are assumption log 23. -/

namespace Sys2Proof.Machine.Asm

/-- The mnemonics of R83 and the pseudo-instructions of R93. -/
inductive Mnemonic where
  | prepin
  | rddata
  | drvdata
  | setcst
  | setcdir
  | qpin
  | rev8
  | xrd
  | xwr
  | release
  | setmode
  | assert
  | unassert
deriving DecidableEq, Repr

/-- How the mnemonics are spelled. -/
def mnemonics : List (List Char × Mnemonic) :=
  [(['P', 'R', 'E', 'P', 'I', 'N'], .prepin),
   (['R', 'D', 'D', 'A', 'T', 'A'], .rddata),
   (['D', 'R', 'V', 'D', 'A', 'T', 'A'], .drvdata),
   (['S', 'E', 'T', 'C', 'S', 'T'], .setcst),
   (['S', 'E', 'T', 'C', 'D', 'I', 'R'], .setcdir),
   (['Q', 'P', 'I', 'N'], .qpin),
   (['R', 'E', 'V', '8'], .rev8),
   (['X', 'R', 'D'], .xrd),
   (['X', 'W', 'R'], .xwr),
   (['R', 'E', 'L', 'E', 'A', 'S', 'E'], .release),
   (['S', 'E', 'T', 'M', 'O', 'D', 'E'], .setmode),
   (['A', 'S', 'S', 'E', 'R', 'T'], .assert),
   (['U', 'N', 'A', 'S', 'S', 'E', 'R', 'T'], .unassert)]

/-- The symbols of the control-byte bits (R94). -/
def bitSymbols : List (List Char × Byte) :=
  [(['A', 'T', 'N'], 0x80#8),
   (['S', 'R', 'Q'], 0x40#8),
   (['R', 'E', 'N'], 0x20#8),
   (['E', 'O', 'I'], 0x10#8),
   (['D', 'A', 'V'], 0x08#8),
   (['N', 'R', 'F', 'D'], 0x04#8),
   (['N', 'D', 'A', 'C'], 0x02#8),
   (['I', 'F', 'C'], 0x01#8)]

/-- The index symbols of QPIN (R94). -/
def indexSymbols : List (List Char × Byte) :=
  [(['i', 'A', 'T', 'N'], 7#8),
   (['i', 'S', 'R', 'Q'], 6#8),
   (['i', 'R', 'E', 'N'], 5#8),
   (['i', 'E', 'O', 'I'], 4#8),
   (['i', 'D', 'A', 'V'], 3#8),
   (['i', 'N', 'R', 'F', 'D'], 2#8),
   (['i', 'N', 'D', 'A', 'C'], 1#8),
   (['i', 'I', 'F', 'C'], 0#8)]

/-- The text before the comment that `;` starts. -/
def uncomment (cs : List Char) : List Char := cs.takeWhile (· != ';')

/-- The text without the blanks around it. -/
def trim (cs : List Char) : List Char := ((cs.dropWhile (· == ' ')).reverse.dropWhile (· == ' ')).reverse

/-- The pieces between the separators. -/
def pieces (sep : Char) : List Char → List (List Char)
  | [] => [[]]
  | c :: cs =>
    if c = sep then [] :: pieces sep cs
    else
      match pieces sep cs with
      | [] => [[c]]
      | h :: t => (c :: h) :: t

/-- The value of a digit. -/
def digit (c : Char) : Option Nat :=
  if '0' ≤ c ∧ c ≤ '9' then some (c.toNat - 48)
  else if 'a' ≤ c ∧ c ≤ 'f' then some (c.toNat - 87)
  else if 'A' ≤ c ∧ c ≤ 'F' then some (c.toNat - 55)
  else none

/-- A number in a base, given that `acc` has been read. -/
def digits (base : Nat) (acc : Nat) : List Char → Option Nat
  | [] => some acc
  | c :: cs =>
    match digit c with
    | some d => if d < base then digits base (acc * base + d) cs else none
    | none => none

/-- A non-empty number in a base, at most 255. -/
def byteIn (base : Nat) (cs : List Char) : Option Byte :=
  if cs.isEmpty then none
  else
    match digits base 0 cs with
    | some n => if n ≤ 255 then some (BitVec.ofNat 8 n) else none
    | none => none

/-- A decimal, hexadecimal or binary number 0..255 (R92). -/
def number : List Char → Option Byte
  | '0' :: 'x' :: cs => byteIn 16 cs
  | '0' :: 'b' :: cs => byteIn 2 cs
  | cs => byteIn 10 cs

/-- Symbols joined by `|`, in a table of symbols. -/
def symbols (table : List (List Char × Byte)) (cs : List Char) : Option Byte :=
  (pieces '|' cs).foldl
    (fun acc x =>
      match acc, table.lookup (trim x) with
      | some v, some y => some (v ||| y)
      | _, _ => none)
    (some 0x00#8)

/-- An operand: `#`, then a number or symbols (R92). -/
def operand (table : List (List Char × Byte)) : List Char → Option Byte
  | '#' :: cs =>
    match number cs with
    | some v => some v
    | none => symbols table cs
  | _ => none

/-- The command of a mnemonic and its operand texts; a pseudo-instruction stands for its expansion (R93). -/
def command (m : Mnemonic) (ops : List (List Char)) : Option Instr :=
  let byte := operand bitSymbols
  match m, ops with
  | .prepin, [] => some .prepin
  | .release, [] => some .prepin
  | .rddata, [] => some .rddata
  | .drvdata, [v] => (byte v).map .drvdata
  | .setcst, [x, y] => (byte x).bind fun bits => (byte y).map fun mask => .setcst bits mask
  | .setcdir, [x, y] => (byte x).bind fun bits => (byte y).map fun mask => .setcdir bits mask
  | .setmode, [x, ['I', 'N']] => (byte x).map fun mask => .setcdir 0x00#8 mask
  | .setmode, [x, ['O', 'U', 'T']] => (byte x).map fun mask => .setcdir 0xFF#8 mask
  | .assert, [x] => (byte x).map fun mask => .setcst mask mask
  | .unassert, [x] => (byte x).map fun mask => .setcst 0x00#8 mask
  | .qpin, [x] => (operand (bitSymbols ++ indexSymbols) x).map .qpin
  | .rev8, [x] => (byte x).map .rev8
  | .xrd, [x] => (byte x).map .xrd
  | .xwr, [x, y] => (byte x).bind fun id => (byte y).map fun v => .xwr id v
  | _, _ => none

/-- The command a line stands for; none for a line that is empty or is not in the syntax. -/
def assemble (cs : List Char) : Option Instr :=
  let text := trim (uncomment cs)
  let rest := trim (text.dropWhile (· != ' '))
  match mnemonics.lookup (text.takeWhile (· != ' ')) with
  | some m => command m (if rest.isEmpty then [] else (pieces ',' rest).map trim)
  | none => none

end Sys2Proof.Machine.Asm
end

