-- ==== Sys2Proof/Safety.lean ====
section
/-! DEFINITION. The terms in which claims are stated: which lines a mask selects, the level a line has where the
spec gives one, what a command sets, the run of one command, and the invariant of the machine. -/

namespace Sys2Proof.Machine

/-- Bit `b` of port `p` carries a line that the logical mask `m` of `map` selects. -/
def selected (map : LineMap) (m : Byte) (p b : Nat) : Prop :=
  ∃ i : Fin 8, m.getLsbD i.val = true ∧ map[i].port = p ∧ map[i].bit = b

/-- Some line that the mask `m` selects is on port `p`. -/
def portSelected (map : LineMap) (m : Byte) (p : Nat) : Prop :=
  ∃ i : Fin 8, m.getLsbD i.val = true ∧ map[i].port = p

/-- Bit `b` of port `p` carries no logical line (R40). -/
def unmappedBit (pf : Profile) (p b : Nat) : Prop := ¬selected pf.dmap 0xFF#8 p b ∧ ¬selected pf.cmap 0xFF#8 p b

/-- `is_out(p, b)` (R28). -/
def State.outputLine (s : State) (p b : Nat) : Bool :=
  isOut (Config.dirInv s.profile.kind) (s.mem.bit .dir p b)

/-- The pairing of R32 on one line: pull-up enabled exactly when the line is not an output. -/
def State.paired (s : State) (p b : Nat) : Prop := s.mem.bit .pue p b = !s.outputLine p b

/-- Nothing outside opposes an output line: `EXT(p, b)` is `Z` or the latch bit (R30). -/
def State.uncontended (s : State) (e : Env) (p b : Nat) : Prop :=
  s.outputLine p b = true ∧ (e.drive p b = .z ∨ e.drive p b = .driven (s.mem.bit .out p b))

/-- The level of a line where R30 gives one; none where it gives `draw()`. -/
def State.definiteLevel (s : State) (e : Env) (p b : Nat) : Option Bool :=
  if s.outputLine p b = true then
    if e.drive p b = .z ∨ e.drive p b = .driven (s.mem.bit .out p b) then some (s.mem.bit .out p b) else none
  else
    match e.drive p b with
    | .driven v => some v
    | .z => if s.mem.bit .pue p b = true then some true else none

/-- From `s` to `t` the lines that mask `m` of `map` selects take the directions `d` (1 = output), in the port's
encoding, and the matching pull-ups; every other direction and pull-up bit is kept (R204, R126). -/
def setsDirections (map : LineMap) (m d : Byte) (s t : State) : Prop :=
  (∀ i : Fin 8, m.getLsbD i.val = true →
    t.mem.bit .dir map[i].port map[i].bit = (d.getLsbD i.val ^^ Config.dirInv s.profile.kind) ∧
    t.mem.bit .pue map[i].port map[i].bit = !d.getLsbD i.val) ∧
  ∀ p b : Nat, ¬selected map m p b →
    t.mem.bit .dir p b = s.mem.bit .dir p b ∧ t.mem.bit .pue p b = s.mem.bit .pue p b

/-- The latches of the selected lines take the complement of the logical value `v` (R200, R135). -/
def setsLatches (map : LineMap) (m v : Byte) (t : State) : Prop :=
  ∀ i : Fin 8, m.getLsbD i.val = true → t.mem.bit .out map[i].port map[i].bit = !v.getLsbD i.val

/-- Every latch bit but those of the selected lines is kept. -/
def keepsOtherLatches (map : LineMap) (m : Byte) (s t : State) : Prop :=
  ∀ p b : Nat, ¬selected map m p b → t.mem.bit .out p b = s.mem.bit .out p b

/-- What is left of that on REMOTE (R209): every latch bit of a port with no selected line is kept, and so is
that of every line that was an uncontended output throughout. -/
def keepsOutputLatches (map : LineMap) (m : Byte) (es : List Env) (s t : State) : Prop :=
  ∀ p b : Nat, ¬selected map m p b →
    (¬portSelected map m p ∨ ∀ e ∈ es, s.uncontended e p b) → t.mem.bit .out p b = s.mem.bit .out p b

/-- Neither direction nor pull-up of any line changes. -/
def keepsDirections (s t : State) : Prop :=
  ∀ p b : Nat, t.mem.bit .dir p b = s.mem.bit .dir p b ∧ t.mem.bit .pue p b = s.mem.bit .pue p b

/-- A command has just been accepted: a well-formed build, the first micro-operation next, the link free. -/
def State.ready (s : State) : Bool := s.buildOk && s.active && s.useq == 0 && !s.sspc.busy

/-- The run of a command through its steps, with the environment's inputs at each of them, until it completes. -/
def runCommand (i : Instr) : List Env → State → Host.Outcome State Fault Refusal
  | [], s => .next s
  | e :: es, s =>
    match exec i { s with env := e } with
    | .next t => if t.active = true then runCommand i es t else .next t
    | .fault r => .fault r
    | .refused r => .refused r

/-- The machine's own steps until the command in progress completes, at most `n` of them: the handler may move
between any two of MAIN's. -/
def runUntilDone : Nat → State → Host.Outcome State Fault Refusal
  | 0, s => .next s
  | n + 1, s =>
    if s.active = true then
      match step s with
      | .next t => runUntilDone n t
      | .fault r => .fault r
      | .refused r => .refused r
    else .next s

/-- How many steps a command takes when nothing makes it wait (R263). -/
def commandSteps (pf : Profile) : Instr → Nat
  | .prepin => (prepinPlan pf).steps pf
  | .rddata => (rddataPlan pf).steps pf
  | .drvdata v => (drvdataPlan pf v).steps pf
  | .setcst bits mask => (setcstPlan pf bits mask).steps pf
  | .setcdir bits mask => (setcdirPlan pf bits mask).steps pf
  | .qpin index => (qpinPlan pf index).steps pf
  | .rev8 _ => 1
  | .xrd _ => 1
  | .xwr _ _ => 1

/-- The primitives of a command on WIDE, as the tables of 43_data_bus.md R186 and 44_control_lines.md R208 list
them: register, mask, value; a primitive whose mask is zero is not issued (R129). Written apart from the plans, to
be compared with them. -/
def widePrimitives (pf : Profile) : Instr → List (Reg × Word32 × Word32)
  | .prepin => [(.dir, dataMask pf 0, 0#32), (.pue, dataMask pf 0, dataMask pf 0)]
  | .drvdata v =>
    [(.pue, dataMask pf 0, 0#32), (.dir, dataMask pf 0, dataMask pf 0), (.out, dataMask pf 0, scatter pf.dmap v 0)]
  | .setcst bits mask => if mask = 0#8 then [] else [(.out, smask pf.cmap mask 0, scatter pf.cmap bits 0)]
  | .setcdir bits mask =>
    let m : Word32 := smask pf.cmap mask 0
    let mo : Word32 := smask pf.cmap (bits &&& mask) 0
    let mi : Word32 := smask pf.cmap (~~~bits &&& mask) 0
    (if mo = 0#32 then [] else [(.pue, mo, 0#32)]) ++ (if m = 0#32 then [] else [(.dir, m, mo)]) ++
      (if mi = 0#32 then [] else [(.pue, mi, mi)])
  | _ => []

/-- The `RemRMW`s of a command on REMOTE, as R186 and R209 list them: register, port, mask, value, in the device's
direction encoding (0 = output). -/
def remoteUpdates (pf : Profile) : Instr → List (Reg × Nat × Byte × Byte)
  | .prepin =>
    (aff pf pf.dmap 0xFF#8).flatMap fun p =>
      [(.dir, p, dataMask pf p, dataMask pf p), (.pue, p, dataMask pf p, dataMask pf p)]
  | .drvdata v =>
    (aff pf pf.dmap 0xFF#8).flatMap fun p =>
      [(.pue, p, dataMask pf p, 0#8), (.dir, p, dataMask pf p, 0#8), (.out, p, dataMask pf p, scatter pf.dmap v p)]
  | .setcst bits mask =>
    (aff pf pf.cmap mask).map fun p => (.out, p, smask pf.cmap mask p, scatter pf.cmap bits p)
  | .setcdir bits mask =>
    (aff pf pf.cmap mask).flatMap fun p =>
      [(.dir, p, smask pf.cmap mask p, smask pf.cmap (~~~bits) p),
       (.pue, p, smask pf.cmap mask p, smask pf.cmap (~~~bits) p)]
  | _ => []

/-- The transactions of a command on REMOTE. -/
def remoteXacts (pf : Profile) : Instr → List Xact
  | .prepin => (prepinPlan pf).narrow.flatMap (Access.xacts pf)
  | .rddata => (rddataPlan pf).narrow.flatMap (Access.xacts pf)
  | .drvdata v => (drvdataPlan pf v).narrow.flatMap (Access.xacts pf)
  | .setcst bits mask => (setcstPlan pf bits mask).narrow.flatMap (Access.xacts pf)
  | .setcdir bits mask => (setcdirPlan pf bits mask).narrow.flatMap (Access.xacts pf)
  | .qpin index => (qpinPlan pf index).narrow.flatMap (Access.xacts pf)
  | .rev8 _ => []
  | .xrd id => [.fetch id]
  | .xwr id v => [.store id v]

/-- The remote device responds at every one of these steps. -/
def allComplete (es : List Env) : Bool := es.all fun e => e.response == .completes

/-- The link is free for MAIN and the remote device responds now. -/
def State.linkServes (s : State) : Prop := (s.sspc.busy = true → s.sspc.owner = .main) ∧ s.env.response = .completes

/-- The environment does not reset the block. -/
def State.noReset (s : State) : Bool := s.script.all fun e => !e.reset

/-- MAIN's command in progress is at a transaction: its word decodes to a command whose `USEQ`-th transaction
exists. -/
def State.atTransaction (s : State) : Prop :=
  s.active = true ∧ ∃ i : Instr, decode (packWord s.op s.a s.b) = .ok i ∧ s.useq < (remoteXacts s.profile i).length

/-- What is between steps true of the serial controller and the handler (R36, R38, R59, R166, R226): `SEL` is
asserted exactly while `BUSY`; the link and the request exist on REMOTE only; a transaction of MAIN belongs to a
command in progress and one of HND to a request; fewer than three bytes of an unfinished frame have been sent; on
NATIVE no command is half done. -/
def State.linkOk (s : State) : Prop :=
  s.sspc.sel = s.sspc.busy ∧
  (s.sspc.busy = true → s.profile.kind = .remote ∧ s.sspc.sent.length < 3) ∧
  (s.hpend = true → s.profile.kind = .remote) ∧
  (s.sspc.busy = true → s.sspc.owner = .main → s.atTransaction) ∧
  (s.sspc.busy = true → s.sspc.owner = .hnd → s.hpend = true) ∧
  (s.active = true → s.profile.kind ≠ .native)

/-- The invariant of the machine: one well-formed build, its registers in canonical form, and `linkOk`. -/
def Inv (s : State) : Prop := s.buildOk = true ∧ s.mem.wf = true ∧ s.linkOk

end Sys2Proof.Machine
end

