-- ==== Sys2Proof/Certificates/Slice0/Obligations.lean ====
section
/-! DEFINITION. The statements about the machine, one `def` each; each docstring names the rules of `spec/` it
formalises. -/

open Sys2Proof Sys2Proof.Machine

/-! ## Encoding -/

/-- The example encodings of 30_encoding.md R83 and of the command rules decode to the commands they stand for. -/
def Obligations.SpecWordsDecodeToTheirCommands : Prop :=
  decode 0x000000#24 = .ok .prepin ∧ decode 0x010000#24 = .ok .rddata ∧
  decode 0x024100#24 = .ok (.drvdata 0x41#8) ∧ decode 0x038080#24 = .ok (.setcst 0x80#8 0x80#8) ∧
  decode 0x04B9FF#24 = .ok (.setcdir 0xB9#8 0xFF#8) ∧ decode 0x050300#24 = .ok (.qpin 0x03#8) ∧
  decode 0x06A700#24 = .ok (.rev8 0xA7#8) ∧ decode 0x070D00#24 = .ok (.xrd 0x0D#8) ∧
  decode 0x080D3C#24 = .ok (.xwr 0x0D#8 0x3C#8)

/-- Decode and encode agree, and a word decodes to a command exactly when its opcode is the command's and the
fields the command's format uses are its operands (R80 to R83, R87). -/
def Obligations.DecodeAndEncodeAgree : Prop :=
  ∀ i : Instr, decode (encode i) = .ok i ∧
    ∀ w : CommandWord, decode w = .ok i ↔
      opField w = i.opcode ∧ (i.format ≠ .n → aField w = i.operandA) ∧ (i.format = .ab → bField w = i.operandB)

/-- Exactly the words with opcodes 0x09 to 0xFF are no command of R83. That the decoder refuses such a word, naming
its opcode, is the model's choice (assumption log 16); the step completes it as R85 says. -/
def Obligations.ReservedOpcodesAreExactlyNineAndAbove : Prop :=
  ∀ w : CommandWord, (decode w = .error (.reservedOpcode (opField w)) ↔ 9 ≤ (opField w).toNat) ∧
    ((opField w).toNat < 9 → ∃ i : Instr, decode w = .ok i)

/-! ## The step -/

/-- When the caller's next word, or the word of the command in progress, decodes to `i` and MAIN moves, the step
is `exec i` on the state with this step's inputs, and the accepted word latched: its three bytes in `OP`, `A`, `B`,
`USEQ` 0, the command in progress (R35, R36, R80). That MAIN accepts a word while a stalled transaction of HND holds
the link is the model's choice (assumption log 27). -/
def Obligations.StepRunsTheDecodedCommand : Prop :=
  (∀ (s : State) (i : Instr), s.buildOk = true → s.nextEnv.env.reset = false → s.inputs.hndMoves = false →
    (∀ (w : CommandWord) (rest : List CommandWord), s.active = false → s.cmds = w :: rest → decode w = .ok i →
      step s = exec i (s.inputs.accept w rest)) ∧
    (s.active = true → decode (packWord s.op s.a s.b) = .ok i → step s = exec i s.inputs)) ∧
  ∀ (s : State) (w : CommandWord) (rest : List CommandWord),
    packWord (s.accept w rest).op (s.accept w rest).a (s.accept w rest).b = w ∧
    s.accept w rest =
      { s with
        op := opField w, a := aField w, b := bField w, useq := 0, samples := [], active := true, cmds := rest }

/-- A word placed by `withFetchWord` is accepted and run by the very next step, whatever the state was
(assumption log 19). -/
def Obligations.PlacedWordRunsNext : Prop :=
  ∀ (s : State) (w : CommandWord) (i : Instr), s.buildOk = true → decode w = .ok i →
    step (s.withFetchWord 24 w.toNat) =
      exec i (({ s with
        active := false, sspc := { s.sspc with sel := false, busy := false }, env := s.env.granting } :
          State).accept w s.cmds)

/-- A command word with a reserved opcode completes with `RES = 0x00`; nothing else changes (R85; the samples are
the dead latch of assumption log 13). So does the machine's step, when MAIN moves: on the caller's next word, whose
bytes are latched, and on a latched one. That it does so while a stalled transaction of HND holds the link is the
model's choice (assumption log 27). -/
def Obligations.ReservedWordsCompleteWithZero : Prop :=
  (∀ (s : State) (w : CommandWord), 9 ≤ (opField w).toNat →
    execWord w s = .next { s with res := 0x00#8, active := false, samples := [] }) ∧
  ∀ s : State, s.buildOk = true → s.nextEnv.env.reset = false → s.inputs.hndMoves = false →
    (∀ (w : CommandWord) (rest : List CommandWord), s.active = false → s.cmds = w :: rest →
      9 ≤ (opField w).toNat →
      step s = .next { s.inputs.accept w rest with res := 0x00#8, active := false, samples := [] }) ∧
    (s.active = true → 9 ≤ s.op.toNat →
      step s = .next { s.inputs with res := 0x00#8, active := false, samples := [] })

/-- Off REMOTE, XRD and XWR behave as reserved opcodes (R86). -/
def Obligations.RemoteCommandsAreReservedOffRemote : Prop :=
  ∀ (s : State) (id v : Byte), s.profile.kind ≠ .remote →
    exec (.xrd id) s = .next { s with res := 0x00#8, active := false, samples := [] } ∧
    exec (.xwr id v) s = .next { s with res := 0x00#8, active := false, samples := [] }

/-- No step ends in a fault (R220). A state that is no instance of one well-formed build takes no step (R221, U8;
assumption log 14). On a well-formed build the only refusals are XRD and XWR naming an identifier the spec gives
no meaning (R33, U6, D32). -/
def Obligations.OnlyMeaninglessIdsAreRefused : Prop :=
  ∀ s : State, (∀ f : Fault, step s ≠ .fault f) ∧
    (s.buildOk = false → step s = .refused .illFormedBuild) ∧
    ∀ r : Refusal, s.buildOk = true → step s = .refused r →
      s.profile.kind = .remote ∧ ∃ id : Byte,
        (r = .readOfUnspecifiedId id ∧ id ∉ s.profile.allIds) ∨
        (r = .writeOfUnspecifiedId id ∧ (id ∉ s.profile.allIds ∨ id = s.profile.regCap))

/-- XRD and XWR naming an identifier the spec gives no meaning are refused, and so is XWR naming `REG_CAP`
(R159, R160, U6, D32). -/
def Obligations.MeaninglessIdsAreRefused : Prop :=
  ∀ (s : State) (id v : Byte), s.profile.kind = .remote →
    (id ∉ s.profile.allIds → exec (.xrd id) s = .refused (.readOfUnspecifiedId id)) ∧
    (id ∉ s.profile.allIds ∨ id = s.profile.regCap → exec (.xwr id v) s = .refused (.writeOfUnspecifiedId id))

/-! ## Reset, the environment and the invariant -/

/-- Reset during operation idles the block and writes no register (R250); and so is the machine right after reset,
for every profile and every `INIT` (R41, R251). -/
def Obligations.ResetIdlesTheBlock : Prop :=
  (∀ s : State, s.buildOk = true → s.nextEnv.env.reset = true →
    ∃ t : State, step s = .next t ∧ t.active = false ∧ t.sspc.busy = false ∧ t.sspc.sel = false ∧
      t.hpend = false ∧ t.mem = s.mem ∧ t.profile = s.profile) ∧
  ∀ (pf : Profile) (init : Memory),
    (State.resetOf pf init).active = false ∧ (State.resetOf pf init).sspc.busy = false ∧
    (State.resetOf pf init).sspc.sel = false ∧ (State.resetOf pf init).hpend = false ∧
    (State.resetOf pf init).mem = init ∧ (State.resetOf pf init).profile = pf

/-- The invariant holds right after reset, for every well-formed profile and every `INIT` that fits it. -/
def Obligations.ResetMeetsTheInvariant : Prop :=
  Inv State.reset ∧
  ∀ (pf : Profile) (init : Memory), pf.wf = true → init.fits pf = true → Inv (State.resetOf pf init)

/-- Every step keeps the invariant: the build stays well formed, the registers stay in canonical form, `SEL`
follows `BUSY`, and no transaction or request stands alone (R36, R38, R59, R166, R226). The profile does not change
(R22, R24; that State holds it is assumption log 1). -/
def Obligations.StepKeepsTheInvariant : Prop :=
  ∀ s t : State, Inv s → step s = .next t → Inv t ∧ t.profile = s.profile

/-- What the environment may change between two commands are bits that no logical line maps to (R40). That it
changes none during a command is the model's choice (assumption log 17): R40 allows such a change between two
micro-operations, and only the single-caller assumption of R254 excludes it. -/
def Obligations.ForeignChangesSpareMappedBits : Prop :=
  ∀ s : State, s.buildOk = true →
    (∀ (r : Reg) (p b : Nat), ¬unmappedBit s.profile p b → s.applyForeign.mem.bit r p b = s.mem.bit r p b) ∧
    (s.active = true → s.applyForeign = s)

/-- A notification sets `HPEND` and nothing else; further ones are absorbed; NATIVE and WIDE builds have no such
input (R226). -/
def Obligations.NotificationSetsThePendingBit : Prop :=
  ∀ s : State,
    (s.env.notify = true → s.profile.kind = .remote → s.applyNotify = { s with hpend := true }) ∧
    (s.env.notify = true → s.profile.kind = .remote → s.hpend = true → s.applyNotify = s) ∧
    (s.env.notify = false → s.applyNotify = s) ∧ (s.profile.kind ≠ .remote → s.applyNotify = s)

/-! ## The bit-permutation unit -/

/-- `rev8` reverses the bits, is involutive and a bijection (R101, R104). -/
def Obligations.Rev8ReversesTheBits : Prop :=
  (∀ (x : Byte) (i : Nat), i < 8 → (rev8 x).getLsbD i = x.getLsbD (7 - i)) ∧
  (∀ x : Byte, rev8 (rev8 x) = x) ∧ Function.Bijective rev8

/-- The three stages of `rev8`, in their mask form, and that they commute (R102). -/
def Obligations.Rev8StagesHaveTheirMaskForm : Prop :=
  (∀ x : Byte, rev8 x = bitSwap (pairSwap (nibbleSwap x))) ∧
  (∀ x : Byte, nibbleSwap x = ((x &&& 0xF0#8) >>> 4) ||| ((x &&& 0x0F#8) <<< 4)) ∧
  (∀ x : Byte, pairSwap x = ((x &&& 0xCC#8) >>> 2) ||| ((x &&& 0x33#8) <<< 2)) ∧
  (∀ x : Byte, bitSwap x = ((x &&& 0xAA#8) >>> 1) ||| ((x &&& 0x55#8) <<< 1)) ∧
  (∀ x : Byte, nibbleSwap (pairSwap x) = pairSwap (nibbleSwap x) ∧
    nibbleSwap (bitSwap x) = bitSwap (nibbleSwap x) ∧ pairSwap (bitSwap x) = bitSwap (pairSwap x)) ∧
  ∀ (x : Byte) (i : Nat), i < 8 → (rev8 x).getLsbD i = x.getLsbD (7 - i)

/-- Rotates move every bit by `n mod 8` places and lose none (R105). -/
def Obligations.RotatesWrapModuloEight : Prop :=
  (∀ (x : Byte) (n i : Nat), i < 8 → (rotl8 x n).getLsbD ((i + n) % 8) = x.getLsbD i ∧
    (rotr8 x n).getLsbD i = x.getLsbD ((i + n) % 8)) ∧
  (∀ x : Byte, rotl8 x 0 = x ∧ rotl8 x 8 = x) ∧
  (∀ (x : Byte) (n : Nat), rotr8 x n = rotl8 x ((8 - n % 8) % 8)) ∧
  rotl8 0xA5#8 3 = 0x2D#8 ∧ rotr8 0xA5#8 3 = 0xB4#8 ∧ rotl8 0x81#8 1 = 0x03#8

/-- Shifts are logical, fill with zero, and give 0 for a count at or above the width (R106, R8). -/
def Obligations.ShiftsFillWithZero : Prop :=
  (∀ (w : Nat) (x : BitVec w) (n b : Nat), b < w →
    (shl x n).getLsbD b = (decide (n ≤ b) && x.getLsbD (b - n)) ∧ (shr x n).getLsbD b = x.getLsbD (b + n)) ∧
  (∀ (w : Nat) (x : BitVec w) (n : Nat), w ≤ n → shl x n = 0#w ∧ shr x n = 0#w) ∧
  shl 0xA0#8 2 = 0x80#8 ∧ shr 0xA0#8 2 = 0x28#8

/-- REV8 completes at once with the reversed byte, on every kind of build, and changes nothing else; its fixed
points are the 16 palindromes; the worked example (R103). -/
def Obligations.Rev8CommandReturnsTheReversedByte : Prop :=
  (∀ (s : State) (x : Byte),
    exec (.rev8 x) s = .next { s with res := rev8 x, active := false, samples := [] }) ∧
  (∀ x : Byte, rev8 x = x ↔
    x ∈ [0x00#8, 0x18#8, 0x24#8, 0x3C#8, 0x42#8, 0x5A#8, 0x66#8, 0x7E#8, 0x81#8, 0x99#8, 0xA5#8, 0xBD#8, 0xC3#8,
      0xDB#8, 0xE7#8, 0xFF#8]) ∧
  decode 0x06A700#24 = .ok (.rev8 0xA7#8) ∧ nibbleSwap 0xA7#8 = 0x7A#8 ∧ pairSwap 0x7A#8 = 0xDA#8 ∧
  rev8 0xA7#8 = 0xE5#8

/-! ## The masked register translator -/

/-- `scatter` puts the complement of each logical bit on its line and 0 on every other bit (R120, with the
polarity of R23(c)). -/
def Obligations.ScatterPlacesTheComplement : Prop :=
  ∀ (pf : Profile) (map : LineMap) (w : Nat), pf.wf = true → (map = pf.dmap ∨ map = pf.cmap) →
    Config.width pf.kind ≤ w → ∀ v : Byte,
      (∀ i : Fin 8, (scatter map v map[i].port : BitVec w).getLsbD map[i].bit = !v.getLsbD i.val) ∧
      ∀ p b : Nat, ¬selected map 0xFF#8 p b → (scatter map v p : BitVec w).getLsbD b = false

/-- Masks are not inverted, directions are put in the port's own encoding and not inverted by polarity (R121,
R122). -/
def Obligations.MasksAndDirectionsKeepTheirSense : Prop :=
  ∀ (pf : Profile) (map : LineMap) (w : Nat), pf.wf = true → (map = pf.dmap ∨ map = pf.cmap) →
    Config.width pf.kind ≤ w → ∀ (m : Byte) (inv : Bool),
      (∀ i : Fin 8, (smask map m map[i].port : BitVec w).getLsbD map[i].bit = m.getLsbD i.val ∧
        (sdir inv map m map[i].port : BitVec w).getLsbD map[i].bit = (m.getLsbD i.val ^^ inv)) ∧
      ∀ p b : Nat, ¬selected map 0xFF#8 p b →
        (smask map m p : BitVec w).getLsbD b = false ∧ (sdir inv map m p : BitVec w).getLsbD b = false

/-- `gather` reads the complement of each line's bit, and nothing else (R123). -/
def Obligations.GatherReadsTheComplement : Prop :=
  ∀ (pf : Profile) (map : LineMap) (w : Nat), pf.wf = true → (map = pf.dmap ∨ map = pf.cmap) →
    (∀ (x : Nat → BitVec w) (i : Fin 8),
      (gather map x).getLsbD i.val = !(x map[i].port).getLsbD map[i].bit) ∧
    ∀ x y : Nat → BitVec w,
      (∀ i : Fin 8, (x map[i].port).getLsbD map[i].bit = (y map[i].port).getLsbD map[i].bit) →
      gather map x = gather map y

/-- The affected ports are those with a non-zero fragment mask, those of the selected lines, in ascending order;
none under a zero mask (R124). -/
def Obligations.AffectedPortsHaveNonzeroMasks : Prop :=
  ∀ (pf : Profile) (map : LineMap) (w : Nat), pf.wf = true → (map = pf.dmap ∨ map = pf.cmap) →
    Config.width pf.kind ≤ w → ∀ m : Byte,
      (∀ p : Nat, p ∈ aff pf map m ↔ p ∈ pf.ports ∧ (smask map m p : BitVec w) ≠ 0#w) ∧
      (∀ p : Nat, p ∈ aff pf map m ↔ portSelected map m p) ∧
      (aff pf map m).Pairwise (· < ·) ∧ aff pf map 0x00#8 = []

/-- The laws of the fragment functions: round trip, disjointness, union of masks, complement (R125, without the
count of (c)). -/
def Obligations.FragmentsRoundTrip : Prop :=
  ∀ (pf : Profile) (map : LineMap) (w : Nat), pf.wf = true → (map = pf.dmap ∨ map = pf.cmap) →
    Config.width pf.kind ≤ w →
      (∀ (x : Nat → BitVec w) (v : Byte),
        (∀ p ∈ aff pf map 0xFF#8, x p &&& smask map 0xFF#8 p = scatter map v p) → gather map x = v) ∧
      (∀ (v : Byte) (p : Nat), scatter map v p &&& ~~~(smask map 0xFF#8 p : BitVec w) = 0#w) ∧
      (∀ p : Nat, (dataMask pf p : BitVec w) &&& controlMask pf p = 0#w) ∧
      (∀ (m n : Byte) (p : Nat), (smask map (m ||| n) p : BitVec w) = smask map m p ||| smask map n p) ∧
      ∀ (v : Byte) (p : Nat),
        (scatter map (~~~v) p : BitVec w) = ~~~(scatter map v p : BitVec w) &&& smask map 0xFF#8 p

/-- The worked equivalence for fixture P2: the table gives the rotate, shift and reverse arithmetic (R137). -/
def Obligations.FixtureP2TableIsItsArithmetic : Prop :=
  (∀ v : Byte, scatter Config.fixtureP2.dmap v 0 = rev8 (~~~v) &&& 0xF0#8 ∧
    scatter Config.fixtureP2.dmap v 1 = (~~~v &&& 0xF0#8) >>> 2) ∧
  (∀ x : Nat → Byte, gather Config.fixtureP2.dmap x =
    ~~~(rev8 (x 0 &&& 0xF0#8) ||| ((x 1 &&& 0x3C#8) <<< 2))) ∧
  (∀ m : Byte,
    smask Config.fixtureP2.cmap m 0 = ((m &&& 0x30#8) >>> 4) ||| ((m &&& 0x80#8) >>> 4) ∧
    smask Config.fixtureP2.cmap m 1 = (m &&& 0x03#8) <<< 6 ∧
    smask Config.fixtureP2.cmap m 2 = ((m &&& 0x0C#8) >>> 2) ||| ((m &&& 0x40#8) <<< 1)) ∧
  scatter Config.fixtureP2.dmap 0x55#8 0 = 0x50#8 ∧ scatter Config.fixtureP2.dmap 0x55#8 1 = 0x28#8

/-- On a contiguous WIDE profile the fragments are shifts by the offset, for every offset (R133). -/
def Obligations.ContiguousWideFragmentsAreShifts : Prop :=
  ∀ (map : LineMap) (off : Nat), off + 7 < 32 → (∀ i : Fin 8, map[i] = ⟨0, off + i.val, true⟩) → ∀ v : Byte,
    (scatter map v 0 : Word32) = (~~~v).setWidth 32 <<< off ∧ (smask map 0xFF#8 0 : Word32) = 0xFF#32 <<< off

/-- The masked update of a NATIVE port and the three WIDE primitives change exactly the masked bits of the one
register they name (R52, R53, R126). -/
def Obligations.MaskedWriteChangesOnlyMaskedBits : Prop :=
  (∀ (s : State) (r r' : Reg) (p q b : Nat) (pm pv : Byte), s.buildOk = true → s.profile.kind ≠ .wide →
    p ∈ s.profile.ports →
    (maskedWrite r p pm pv s).mem.bit r' q b =
      if r' = r ∧ q = p ∧ pm.getLsbD b = true then pv.getLsbD b else s.mem.bit r' q b) ∧
  ∀ (s : State) (r r' : Reg) (q b : Nat) (m v : Word32), s.buildOk = true → s.profile.kind = .wide →
    (wideMasked r m v s).mem.bit r' q b =
      if r' = r ∧ q = 0 ∧ m.getLsbD b = true then v.getLsbD b else s.mem.bit r' q b

/-- The level of a line (R30): an output not opposed reads its latch; an opposed output and a floating input read
the free value; an input reads what drives it, else the pull-up's level, physical 1. -/
def Obligations.LineLevelsFollowTheirDrive : Prop :=
  ∀ (w : Nat) (inv : Bool) (g : Regs w) (e : Env) (n p b : Nat), b < w →
    ((g.dir.getLsbD b ^^ inv) = true → (e.drive p b = .z ∨ e.drive p b = .driven (g.out.getLsbD b)) →
      (portLevels inv g e n p).getLsbD b = g.out.getLsbD b) ∧
    ((g.dir.getLsbD b ^^ inv) = true → e.drive p b = .driven (!g.out.getLsbD b) →
      (portLevels inv g e n p).getLsbD b = Config.freeLevel n p b) ∧
    (∀ v : Bool, (g.dir.getLsbD b ^^ inv) = false → e.drive p b = .driven v →
      (portLevels inv g e n p).getLsbD b = v) ∧
    ((g.dir.getLsbD b ^^ inv) = false → e.drive p b = .z → g.pue.getLsbD b = true →
      (portLevels inv g e n p).getLsbD b = true) ∧
    ((g.dir.getLsbD b ^^ inv) = false → e.drive p b = .z → g.pue.getLsbD b = false →
      (portLevels inv g e n p).getLsbD b = Config.freeLevel n p b)

/-! ## The commands on NATIVE: one step each -/

/-- PREPIN on NATIVE completes in one step: all data lines inputs with pull-up, everything else kept (R180,
R59). -/
def Obligations.PrepinOnNativeCompletes : Prop :=
  ∀ s : State, s.buildOk = true → s.profile.kind = .native →
    ∃ t : State, exec .prepin s = .next t ∧
      t = { s with mem := t.mem, res := 0x00#8, active := false, samples := [] } ∧
      setsDirections s.profile.dmap 0xFF#8 0x00#8 s t ∧ ∀ p b : Nat, t.mem.bit .out p b = s.mem.bit .out p b

/-- RDDATA on NATIVE completes in one step: each bit of the result is the complement of its line's level wherever
R30 gives one; no register changes (R181, R59). -/
def Obligations.RddataOnNativeCompletes : Prop :=
  ∀ s : State, s.buildOk = true → s.profile.kind = .native →
    ∃ t : State, exec .rddata s = .next t ∧
      t = { s with res := t.res, active := false, samples := [], drawCount := t.drawCount } ∧
      ∀ (i : Fin 8) (v : Bool), s.definiteLevel s.env s.profile.dmap[i].port s.profile.dmap[i].bit = some v →
        t.res.getLsbD i.val = !v

/-- DRVDATA on NATIVE completes in one step: data lines outputs without pull-up, their latches the complement of
the value, everything else kept (R182, R59). -/
def Obligations.DrvdataOnNativeCompletes : Prop :=
  ∀ (s : State) (v : Byte), s.buildOk = true → s.profile.kind = .native →
    ∃ t : State, exec (.drvdata v) s = .next t ∧
      t = { s with mem := t.mem, res := 0x00#8, active := false, samples := [] } ∧
      setsDirections s.profile.dmap 0xFF#8 0xFF#8 s t ∧ setsLatches s.profile.dmap 0xFF#8 v t ∧
      keepsOtherLatches s.profile.dmap 0xFF#8 s t

/-- SETCST on NATIVE completes in one step: the masked control latches, and nothing else (R200, R202, R59). -/
def Obligations.SetcstOnNativeCompletes : Prop :=
  ∀ (s : State) (bits mask : Byte), s.buildOk = true → s.profile.kind = .native →
    ∃ t : State, exec (.setcst bits mask) s = .next t ∧
      t = { s with mem := t.mem, res := 0x00#8, active := false, samples := [] } ∧
      setsLatches s.profile.cmap mask bits t ∧ keepsOtherLatches s.profile.cmap mask s t ∧ keepsDirections s t

/-- SETCDIR on NATIVE completes in one step: the masked directions with their pull-ups, and nothing else (R204,
R206, R207, R59). -/
def Obligations.SetcdirOnNativeCompletes : Prop :=
  ∀ (s : State) (bits mask : Byte), s.buildOk = true → s.profile.kind = .native →
    ∃ t : State, exec (.setcdir bits mask) s = .next t ∧
      t = { s with mem := t.mem, res := 0x00#8, active := false, samples := [] } ∧
      setsDirections s.profile.cmap mask bits s t ∧ ∀ p b : Nat, t.mem.bit .out p b = s.mem.bit .out p b

/-! ## QPIN, and encodings that do nothing, on every kind -/

/-- QPIN with an index in 0..7 completes with the logical level of that control line wherever R30 gives its
level; no register changes (R210). On REMOTE it is one transaction, a read of the line's port register. -/
def Obligations.QpinReturnsTheLogicalLevel : Prop :=
  ∀ (s : State) (i : Fin 8), s.buildOk = true → s.useq = 0 → (s.profile.kind = .remote → s.linkServes) →
    ∃ t : State, exec (.qpin (BitVec.ofNat 8 i.val)) s = .next t ∧
      t = { s with
        res := t.res, active := false, samples := [], useq := t.useq, sspc := t.sspc, drawCount := t.drawCount } ∧
      (s.profile.kind = .remote → t.sspc.busy = false ∧ t.sspc.sel = false ∧
        t.sspc.sent = [s.profile.ctrlRd, regId s.profile .out s.profile.cmap[i].port, 0x00#8]) ∧
      (s.profile.kind ≠ .remote → t.sspc = s.sspc) ∧
      (t.res = 0x00#8 ∨ t.res = 0x01#8) ∧
      ∀ v : Bool, s.definiteLevel s.env s.profile.cmap[i].port s.profile.cmap[i].bit = some v →
        t.res = if v = true then 0x00#8 else 0x01#8

/-- The legal encodings that do nothing, on every kind: SETCST and SETCDIR with a zero mask, and QPIN with an index
above 7, perform no access and return 0x00 (R88, R201, R205, R211). -/
def Obligations.LegalEncodingsThatDoNothing : Prop :=
  ∀ (s : State) (bits index : Byte),
    exec (.setcst bits 0x00#8) s = .next { s with res := 0x00#8, active := false, samples := [] } ∧
    exec (.setcdir bits 0x00#8) s = .next { s with res := 0x00#8, active := false, samples := [] } ∧
    (8 ≤ index.toNat → exec (.qpin index) s = .next { s with res := 0x00#8, active := false, samples := [] })

/-! ## WIDE: one primitive a step -/

/-- On WIDE, PREPIN, DRVDATA, SETCST and SETCDIR perform the primitives of R186 and R208 in their order, one each
step, and complete at the last; each changes the one register it names and nothing else. -/
def Obligations.WideCommandsPerformTheirPrimitives : Prop :=
  ∀ (s : State) (i : Instr) (r : Reg) (m v : Word32), s.buildOk = true → s.profile.kind = .wide →
    (widePrimitives s.profile i)[s.useq]? = some (r, m, v) →
    ∃ t : State, exec i s = .next t ∧
      t = { s with
        mem := t.mem, useq := s.useq + 1
        res := if s.useq + 1 = (widePrimitives s.profile i).length then 0x00#8 else s.res
        active := if s.useq + 1 = (widePrimitives s.profile i).length then false else s.active
        samples := if s.useq + 1 = (widePrimitives s.profile i).length then [] else s.samples } ∧
      ∀ (r' : Reg) (p b : Nat), t.mem.bit r' p b =
        if r' = r ∧ p = 0 ∧ m.getLsbD b = true then v.getLsbD b else s.mem.bit r' p b

/-! ## REMOTE: one transaction a step -/

/-- On REMOTE, PREPIN, DRVDATA, SETCST and SETCDIR perform the read-modify-writes of R186 and R209 in their
order. The read half sends its frame, puts the direction or pull-up register, or the line levels where R30 gives
them, into `T`, and changes no register. -/
def Obligations.RemoteReadHalfLoadsTheLatch : Prop :=
  ∀ (s : State) (i : Instr) (k : Nat) (r : Reg) (p : Nat) (pm pv : Byte),
    s.buildOk = true → s.profile.kind = .remote → s.linkServes →
    (remoteUpdates s.profile i)[k]? = some (r, p, pm, pv) → s.useq = 2 * k →
    ∃ t : State, exec i s = .next t ∧
      t = { s with t := t.t, useq := s.useq + 1, sspc := t.sspc, drawCount := s.drawCount + 1 } ∧
      t.sspc.busy = false ∧ t.sspc.sel = false ∧ t.sspc.sent = [s.profile.ctrlRd, regId s.profile r p, 0x00#8] ∧
      (r ≠ .out → ∀ b : Nat, b < 8 → t.t.getLsbD b = s.mem.bit r p b) ∧
      (r = .out → ∀ (b : Nat) (v : Bool), b < 8 → s.definiteLevel s.env p b = some v → t.t.getLsbD b = v)

/-- The write half sends `(T & ~pm) | (pv & pm)` and makes it the register's content, all 8 bits; no other
register changes. The command completes at the last one (R161, R186, R209). -/
def Obligations.RemoteWriteHalfStoresTheMerge : Prop :=
  ∀ (s : State) (i : Instr) (k : Nat) (r : Reg) (p : Nat) (pm pv : Byte),
    s.buildOk = true → s.profile.kind = .remote → s.linkServes →
    (remoteUpdates s.profile i)[k]? = some (r, p, pm, pv) → s.useq = 2 * k + 1 →
    ∃ t : State, exec i s = .next t ∧
      t = { s with
        mem := t.mem, useq := s.useq + 1, sspc := t.sspc, drawCount := s.drawCount + 1
        res := if k + 1 = (remoteUpdates s.profile i).length then 0x00#8 else s.res
        active := if k + 1 = (remoteUpdates s.profile i).length then false else s.active
        samples := if k + 1 = (remoteUpdates s.profile i).length then [] else s.samples } ∧
      t.sspc.busy = false ∧ t.sspc.sel = false ∧
      t.sspc.sent = [s.profile.ctrlWr, regId s.profile r p, (s.t &&& ~~~pm) ||| (pv &&& pm)] ∧
      ∀ (r' : Reg) (q b : Nat), b < 8 → t.mem.bit r' q b =
        if r' = r ∧ q = p then (if pm.getLsbD b = true then pv.getLsbD b else s.t.getLsbD b)
        else s.mem.bit r' q b

/-- XRD on REMOTE is one transaction: it returns the raw direction or pull-up register, the line levels (R30),
or the environment's capture byte; no register changes (R159, R154). -/
def Obligations.XrdReturnsTheRemoteRegister : Prop :=
  ∀ (s : State) (id : Byte), s.buildOk = true → s.profile.kind = .remote → s.useq = 0 → s.linkServes →
    id ∈ s.profile.allIds →
    ∃ t : State, exec (.xrd id) s = .next t ∧
      t = { s with
        res := t.res, active := false, samples := [], useq := 1, sspc := t.sspc, drawCount := s.drawCount + 1 } ∧
      t.sspc.busy = false ∧ t.sspc.sel = false ∧ t.sspc.sent = [s.profile.ctrlRd, id, 0x00#8] ∧
      (id = s.profile.regCap → t.res = s.env.capture) ∧
      ∀ x ∈ s.profile.remoteIds,
        (id = x.regDir → ∀ b : Nat, b < 8 → t.res.getLsbD b = s.mem.bit .dir x.port b) ∧
        (id = x.regPue → ∀ b : Nat, b < 8 → t.res.getLsbD b = s.mem.bit .pue x.port b) ∧
        (id = x.regPort → t.res = s.levels8 x.port ∧
          ∀ (b : Nat) (v : Bool), b < 8 → s.definiteLevel s.env x.port b = some v → t.res.getLsbD b = v)

/-- XWR on REMOTE is one transaction: the byte replaces all 8 bits of the register the identifier names, raw, and
nothing else changes (R160, R155). -/
def Obligations.XwrReplacesTheWholeRegister : Prop :=
  ∀ (s : State) (x : RemoteIds) (r : Reg) (id v : Byte), s.buildOk = true → s.profile.kind = .remote →
    s.useq = 0 → s.linkServes → x ∈ s.profile.remoteIds →
    (r = .dir ∧ id = x.regDir ∨ r = .pue ∧ id = x.regPue ∨ r = .out ∧ id = x.regPort) →
    ∃ t : State, exec (.xwr id v) s = .next t ∧
      t = { s with
        mem := t.mem, res := 0x00#8, active := false, samples := [], useq := 1, sspc := t.sspc
        drawCount := s.drawCount + 1 } ∧
      t.sspc.busy = false ∧ t.sspc.sel = false ∧ t.sspc.sent = [s.profile.ctrlWr, id, v] ∧
      ∀ (r' : Reg) (q b : Nat), b < 8 → t.mem.bit r' q b =
        if r' = r ∧ q = x.port then v.getLsbD b else s.mem.bit r' q b

/-- XWR then XRD of the same register returns the byte: always for `REG_DIR` and `REG_PUE`; for `REG_PORT` when
every line of the port is an uncontended output (R165). The second command may find any state in which that one
register is as the first left it, so a handler read between the two makes no difference. -/
def Obligations.RemoteWriteThenReadReturnsTheByte : Prop :=
  ∀ (s t u : State) (x : RemoteIds) (r : Reg) (id v : Byte), s.buildOk = true → s.profile.kind = .remote →
    s.useq = 0 → s.linkServes → x ∈ s.profile.remoteIds →
    (r = .dir ∧ id = x.regDir ∨ r = .pue ∧ id = x.regPue ∨ r = .out ∧ id = x.regPort) →
    exec (.xwr id v) s = .next t →
    u.buildOk = true → u.profile = t.profile → (∀ b : Nat, b < 8 → u.mem.bit r x.port b = t.mem.bit r x.port b) →
    u.useq = 0 → u.linkServes → (r = .out → ∀ b : Nat, b < 8 → u.uncontended u.env x.port b) →
    ∃ u' : State, exec (.xrd id) u = .next u' ∧ u'.res = v

/-- A transaction takes the three bytes of its frame between assertion and deassertion of `SEL`; a write takes
effect, a read returns its register and changes none (R152, R89). One at a time: while one agent's transaction
holds the link the other's does not begin (R166). -/
def Obligations.TransactionExchangesThreeBytes : Prop :=
  ∀ (who : Agent) (q : Request) (s : State),
    ((s.sspc.busy = true → s.sspc.owner = who) → s.env.response = .completes →
      ∃ (rx : Byte) (t : State), transact who q s = .done rx t ∧
        t.sspc.sel = false ∧ t.sspc.busy = false ∧
        (q.rw = .write →
          t.sspc.sent = [s.profile.ctrlWr, q.id, q.wdata] ∧ t.mem = (remWrite q.id q.wdata s).mem) ∧
        (q.rw = .read →
          t.sspc.sent = [s.profile.ctrlRd, q.id, 0x00#8] ∧ rx = remRead q.id s ∧ t.mem = s.mem)) ∧
    (s.sspc.busy = true → s.sspc.owner ≠ who → transact who q s = .waiting s)

/-- While the remote device does not respond to MAIN's transaction, whether it begins now or is in progress, no step
completes the command: it stays at its transaction, `SEL` asserted, `BUSY = 1`, no result, no handler read (R158,
R223, U4). The registers are as they were unless a write waits at byte 2 and has landed; then its register has the
new content (U5, D30). The second part says it of `exec`, so of a word just accepted too. The stalled step is
assumption log 9; that others change no bit during the command is the model's choice (assumption log 17), and so is
that the shift register shows the byte sent (assumption log 28). -/
def Obligations.StalledCommandNeverCompletes : Prop :=
  (∀ (s t : State) (slot : Fin 3) (landed : Bool), Inv s → s.profile.kind = .remote → s.atTransaction →
    (s.sspc.busy = true → s.sspc.owner = .main) → s.inputs.hndMoves = false →
    s.nextEnv.env.reset = false → s.nextEnv.env.response = .stalls slot landed → step s = .next t →
    t.active = true ∧ t.sspc.busy = true ∧ t.sspc.sel = true ∧ t.sspc.owner = .main ∧ t.useq = s.useq ∧
      t.res = s.res ∧ t.hdata = s.hdata ∧ t.cmds = s.cmds ∧
      ((landed = false ∨ t.sspc.sent.length < 2 ∨ t.sspc.sent.head? = some s.profile.ctrlRd) → t.mem = s.mem) ∧
      ∀ id : Byte, landed = true → t.sspc.sent = [s.profile.ctrlWr, id] →
        t.mem = (remWrite id t.sspc.shift s).mem) ∧
  ∀ (s t : State) (i : Instr) (slot : Fin 3) (landed : Bool), s.buildOk = true → s.profile.kind = .remote →
    s.useq < (remoteXacts s.profile i).length → (s.sspc.busy = true → s.sspc.owner = .main) →
    s.env.response = .stalls slot landed → exec i s = .next t →
    t = { s with mem := t.mem, sspc := t.sspc } ∧
      t.sspc.busy = true ∧ t.sspc.sel = true ∧ t.sspc.owner = .main ∧
      ((landed = false ∨ t.sspc.sent.length < 2 ∨ t.sspc.sent.head? = some s.profile.ctrlRd) → t.mem = s.mem) ∧
      ∀ id : Byte, landed = true → t.sspc.sent = [s.profile.ctrlWr, id] →
        t.mem = (remWrite id t.sspc.shift s).mem

/-! ## The handler -/

/-- HND's one action, with a request pending and the link free or already its own (R162, R166). If the device
responds, `HDATA` takes the capture byte, `HPEND` is cleared, and nothing else changes but the link. If it does
not, HND waits with the link held, `HDATA` and `HPEND` kept (R158, R163; the waiting step is assumption log 9). -/
def Obligations.HandlerReadsTheCaptureRegister : Prop :=
  ∀ s : State, s.profile.kind = .remote → s.hpend = true → (s.sspc.busy = true → s.sspc.owner = .hnd) →
    (s.env.response = .completes →
      hndStep s =
          { s with
            hdata := s.env.capture, hpend := false, drawCount := s.drawCount + 1, sspc := (hndStep s).sspc } ∧
        (hndStep s).sspc.busy = false ∧ (hndStep s).sspc.sel = false ∧
        (hndStep s).sspc.sent = [s.profile.ctrlRd, s.profile.regCap, 0x00#8]) ∧
    ∀ (slot : Fin 3) (landed : Bool), s.env.response = .stalls slot landed →
      hndStep s = { s with sspc := (hndStep s).sspc } ∧
        (hndStep s).sspc.busy = true ∧ (hndStep s).sspc.sel = true ∧ (hndStep s).sspc.owner = .hnd ∧
        (hndStep s).sspc.sent =
          [s.profile.ctrlRd, s.profile.regCap, 0x00#8].take (stallSlot s.sspc slot.val)

/-- Whatever the link does, HND's step changes no register, no latch of MAIN and no result (R162, R164, R37). -/
def Obligations.HandlerTouchesOnlyItsOwn : Prop :=
  ∀ s : State, hndStep s =
    { s with
      sspc := (hndStep s).sspc, hdata := (hndStep s).hdata, hpend := (hndStep s).hpend
      drawCount := (hndStep s).drawCount }

/-- When HND has a step to take, the environment decides whether it moves or MAIN does (R162 "may", R163,
R229(a)). -/
def Obligations.EitherAgentMayGoFirst : Prop :=
  ∀ s : State, s.buildOk = true → s.nextEnv.env.reset = false → s.inputs.hndReady = true →
    (s.inputs.env.turn = .hnd → step s = .next (hndStep s.inputs)) ∧
    (s.inputs.env.turn = .main → step s = mainStep s.inputs)

/-! ## Whole commands, on every kind of build

`runCommand` takes the command through its steps with any environment input at each of them. -/

/-- PREPIN's net effect on every kind (R180): data lines inputs with pull-up; every other direction and pull-up
bit, and every latch, kept. -/
def Obligations.PrepinNetEffect : Prop :=
  ∀ (s : State) (es : List Env), s.ready = true → allComplete es = true →
    es.length = commandSteps s.profile .prepin →
    ∃ t : State, runCommand .prepin es s = .next t ∧ t.active = false ∧ t.res = 0x00#8 ∧
      setsDirections s.profile.dmap 0xFF#8 0x00#8 s t ∧ ∀ p b : Nat, t.mem.bit .out p b = s.mem.bit .out p b

/-- DRVDATA's net effect on every kind (R182): data lines outputs without pull-up, their latches the complement
of the value; every other direction and pull-up bit kept; every other latch kept, on REMOTE so far as R209 says. -/
def Obligations.DrvdataNetEffect : Prop :=
  ∀ (s : State) (v : Byte) (es : List Env), s.ready = true → allComplete es = true →
    es.length = commandSteps s.profile (.drvdata v) →
    ∃ t : State, runCommand (.drvdata v) es s = .next t ∧ t.active = false ∧ t.res = 0x00#8 ∧
      setsDirections s.profile.dmap 0xFF#8 0xFF#8 s t ∧ setsLatches s.profile.dmap 0xFF#8 v t ∧
      (s.profile.kind ≠ .remote → keepsOtherLatches s.profile.dmap 0xFF#8 s t) ∧
      (s.profile.kind = .remote → keepsOutputLatches s.profile.dmap 0xFF#8 es s t)

/-- SETCST's net effect on every kind (R200, R202): the masked control latches; directions and pull-ups kept;
every other latch kept, on REMOTE so far as R209 says. -/
def Obligations.SetcstNetEffect : Prop :=
  ∀ (s : State) (bits mask : Byte) (es : List Env), s.ready = true → allComplete es = true →
    es.length = commandSteps s.profile (.setcst bits mask) →
    ∃ t : State, runCommand (.setcst bits mask) es s = .next t ∧ t.active = false ∧ t.res = 0x00#8 ∧
      setsLatches s.profile.cmap mask bits t ∧ keepsDirections s t ∧
      (s.profile.kind ≠ .remote → keepsOtherLatches s.profile.cmap mask s t) ∧
      (s.profile.kind = .remote → keepsOutputLatches s.profile.cmap mask es s t)

/-- On REMOTE the latch bits of the unmasked lines of an affected port take the level of their line (R209, R260):
stated for a line that has one level, wherever R30 gives it, throughout the command. -/
def Obligations.RemoteSetcstCopiesLineLevels : Prop :=
  ∀ (s t : State) (bits mask : Byte) (es : List Env) (p b : Nat) (v : Bool), s.ready = true →
    s.profile.kind = .remote → allComplete es = true →
    es.length = commandSteps s.profile (.setcst bits mask) → runCommand (.setcst bits mask) es s = .next t →
    p ∈ aff s.profile s.profile.cmap mask → b < 8 → ¬selected s.profile.cmap mask p b →
    (∀ e ∈ es, s.definiteLevel e p b = some v) → t.mem.bit .out p b = v

/-- SETCDIR's net effect is the same on every kind (R204, R206): directions and pull-ups of the masked lines;
every other direction and pull-up bit, and every latch, kept. -/
def Obligations.SetcdirNetEffect : Prop :=
  ∀ (s : State) (bits mask : Byte) (es : List Env), s.ready = true → allComplete es = true →
    es.length = commandSteps s.profile (.setcdir bits mask) →
    ∃ t : State, runCommand (.setcdir bits mask) es s = .next t ∧ t.active = false ∧ t.res = 0x00#8 ∧
      setsDirections s.profile.cmap mask bits s t ∧ ∀ p b : Nat, t.mem.bit .out p b = s.mem.bit .out p b

/-- RDDATA on every kind (R181): each bit is the complement of its line's level, for a line that has one level
throughout; no register and no latch but the result changes. On WIDE it is one read of the 32 levels. On REMOTE it
is one transaction per affected port, in the order of `aff`, each a read of the port register whose byte is kept;
the last one gathers the result (R186). -/
def Obligations.RddataNetEffect : Prop :=
  (∀ (s : State) (es : List Env), s.ready = true → allComplete es = true →
    es.length = commandSteps s.profile .rddata →
    ∃ t : State, runCommand .rddata es s = .next t ∧
      t = { s with
        env := t.env, res := t.res, active := false, samples := [], useq := t.useq, sspc := t.sspc
        drawCount := t.drawCount } ∧
      ∀ (i : Fin 8) (v : Bool),
        (∀ e ∈ es, s.definiteLevel e s.profile.dmap[i].port s.profile.dmap[i].bit = some v) →
        t.res.getLsbD i.val = !v) ∧
  (∀ s : State, s.buildOk = true → s.profile.kind = .wide → s.useq = 0 →
    exec .rddata s = .next
      { s with
        res := gather s.profile.dmap fun _ => s.levels32
        active := false, samples := [], useq := 1, drawCount := s.drawCount + 1 }) ∧
  ∀ (s : State) (p : Nat), s.buildOk = true → s.profile.kind = .remote → s.linkServes →
    (aff s.profile s.profile.dmap 0xFF#8)[s.useq]? = some p →
    ∃ t : State, exec .rddata s = .next t ∧
      t.sspc.busy = false ∧ t.sspc.sel = false ∧
      t.sspc.sent = [s.profile.ctrlRd, regId s.profile .out p, 0x00#8] ∧
      (s.useq + 1 < (aff s.profile s.profile.dmap 0xFF#8).length →
        t = { s with
          samples := (p, (s.levels8 p).setWidth 32) :: s.samples
          useq := s.useq + 1, sspc := t.sspc, drawCount := s.drawCount + 1 }) ∧
      (s.useq + 1 = (aff s.profile s.profile.dmap 0xFF#8).length →
        t = { s with
          res := gather s.profile.dmap fun q =>
            if q = p then (s.levels8 p).setWidth 32 else sampleOf s.samples q
          active := false, samples := [], useq := s.useq + 1, sspc := t.sspc, drawCount := s.drawCount + 1 })

/-- The round trip (R183): a byte driven is the byte read, for every profile, every byte and every start state,
if nothing opposes the data lines when they are read. -/
def Obligations.DriveThenReadReturnsTheByte : Prop :=
  ∀ (s t u : State) (x : Byte) (es es' : List Env), s.ready = true → allComplete es = true →
    es.length = commandSteps s.profile (.drvdata x) → runCommand (.drvdata x) es s = .next t →
    u.ready = true → u.profile = t.profile → u.mem = t.mem → allComplete es' = true →
    es'.length = commandSteps u.profile .rddata →
    (∀ e ∈ es', ∀ i : Fin 8,
      e.drive u.profile.dmap[i].port u.profile.dmap[i].bit = .z ∨
      e.drive u.profile.dmap[i].port u.profile.dmap[i].bit =
        .driven (u.mem.bit .out u.profile.dmap[i].port u.profile.dmap[i].bit)) →
    ∃ t' : State, runCommand .rddata es' u = .next t' ∧ t'.active = false ∧ t'.res = x

/-- Drive then release (R185): after DRVDATA and PREPIN every data line is an input with its pull-up on, and the
latches still hold the value driven. -/
def Obligations.DriveThenReleaseLeavesInputs : Prop :=
  ∀ (s t u : State) (v : Byte) (es es' : List Env), s.ready = true → allComplete es = true →
    es.length = commandSteps s.profile (.drvdata v) → runCommand (.drvdata v) es s = .next t →
    u.ready = true → u.profile = t.profile → u.mem = t.mem → allComplete es' = true →
    es'.length = commandSteps u.profile .prepin →
    ∃ t' : State, runCommand .prepin es' u = .next t' ∧ t'.active = false ∧
      ∀ i : Fin 8,
        t'.outputLine s.profile.dmap[i].port s.profile.dmap[i].bit = false ∧
        t'.mem.bit .pue s.profile.dmap[i].port s.profile.dmap[i].bit = true ∧
        t'.mem.bit .out s.profile.dmap[i].port s.profile.dmap[i].bit = !v.getLsbD i.val

/-- How many steps each command takes on each kind: one on NATIVE; its primitives on WIDE; its transactions on
REMOTE, per affected port (R186, R208, R209, R263). A command that accesses nothing takes one. -/
def Obligations.StepCountsPerKind : Prop :=
  ∀ (pf : Profile) (v bits mask index x id : Byte), pf.wf = true →
    (pf.kind = .native → ∀ i : Instr, commandSteps pf i = 1) ∧
    (pf.kind = .wide → commandSteps pf .prepin = 2 ∧ commandSteps pf .rddata = 1 ∧
      commandSteps pf (.drvdata v) = 3 ∧ commandSteps pf (.setcst bits mask) = 1 ∧
      1 ≤ commandSteps pf (.setcdir bits mask) ∧ commandSteps pf (.setcdir bits mask) ≤ 3) ∧
    (pf.kind = .remote →
      commandSteps pf .prepin = 4 * (aff pf pf.dmap 0xFF#8).length ∧
      commandSteps pf .rddata = (aff pf pf.dmap 0xFF#8).length ∧
      commandSteps pf (.drvdata v) = 6 * (aff pf pf.dmap 0xFF#8).length ∧
      (mask ≠ 0#8 → commandSteps pf (.setcst bits mask) = 2 * (aff pf pf.cmap mask).length ∧
        commandSteps pf (.setcdir bits mask) = 4 * (aff pf pf.cmap mask).length)) ∧
    commandSteps pf (.setcst bits 0x00#8) = 1 ∧ commandSteps pf (.setcdir bits 0x00#8) = 1 ∧
    commandSteps pf (.qpin index) = 1 ∧ commandSteps pf (.rev8 x) = 1 ∧ commandSteps pf (.xrd id) = 1 ∧
    commandSteps pf (.xwr id x) = 1

/-- The boot sequence (R253): after PREPIN, SETCST of all control lines and SETCDIR of all control lines, from any
start, every one of the 16 lines satisfies the pairing, every control latch is known, and the direction and pull-up
of every bit no line maps to are as they were, and on NATIVE and WIDE the latch of every bit no control line maps
to (R209 says what REMOTE may do to it). -/
def Obligations.BootSequencePairsEveryLine : Prop :=
  ∀ (s₁ t₁ s₂ t₂ s₃ : State) (bits dirs : Byte) (es₁ es₂ es₃ : List Env),
    s₁.ready = true → allComplete es₁ = true → es₁.length = commandSteps s₁.profile .prepin →
    runCommand .prepin es₁ s₁ = .next t₁ →
    s₂.ready = true → s₂.profile = t₁.profile → s₂.mem = t₁.mem → allComplete es₂ = true →
    es₂.length = commandSteps s₂.profile (.setcst bits 0xFF#8) →
    runCommand (.setcst bits 0xFF#8) es₂ s₂ = .next t₂ →
    s₃.ready = true → s₃.profile = t₂.profile → s₃.mem = t₂.mem → allComplete es₃ = true →
    es₃.length = commandSteps s₃.profile (.setcdir dirs 0xFF#8) →
    ∃ t : State, runCommand (.setcdir dirs 0xFF#8) es₃ s₃ = .next t ∧ t.active = false ∧
      (∀ i : Fin 8,
        t.paired s₁.profile.dmap[i].port s₁.profile.dmap[i].bit ∧
        t.paired s₁.profile.cmap[i].port s₁.profile.cmap[i].bit ∧
        t.outputLine s₁.profile.dmap[i].port s₁.profile.dmap[i].bit = false ∧
        t.outputLine s₁.profile.cmap[i].port s₁.profile.cmap[i].bit = dirs.getLsbD i.val ∧
        t.mem.bit .out s₁.profile.cmap[i].port s₁.profile.cmap[i].bit = !bits.getLsbD i.val) ∧
      (∀ p b : Nat, unmappedBit s₁.profile p b →
        t.mem.bit .dir p b = s₁.mem.bit .dir p b ∧ t.mem.bit .pue p b = s₁.mem.bit .pue p b) ∧
      (s₁.profile.kind ≠ .remote → keepsOtherLatches s₁.profile.cmap 0xFF#8 s₁ t)

/-- The pairing (R32): whenever PREPIN, DRVDATA or SETCDIR completes, on every kind, whatever the handler, the
notifications and the stalls did in between, every line the command selected has its pull-up on exactly when it is
not an output, and the direction the command gave it; lines outside the mask keep direction and pull-up. That
bits no line maps to are not changed by others during the command is the model's choice (assumption log 17). -/
def Obligations.PairingHoldsWhenACommandCompletes : Prop :=
  ∀ (n : Nat) (s t : State), s.buildOk = true → s.active = true → s.useq = 0 →
    (s.sspc.busy = true → s.sspc.owner = .hnd) → s.noReset = true →
    runUntilDone n s = .next t → t.active = false →
    (decode (packWord s.op s.a s.b) = .ok .prepin →
      setsDirections s.profile.dmap 0xFF#8 0x00#8 s t ∧
      ∀ i : Fin 8, t.paired s.profile.dmap[i].port s.profile.dmap[i].bit) ∧
    (∀ v : Byte, decode (packWord s.op s.a s.b) = .ok (.drvdata v) →
      setsDirections s.profile.dmap 0xFF#8 0xFF#8 s t ∧
      ∀ i : Fin 8, t.paired s.profile.dmap[i].port s.profile.dmap[i].bit) ∧
    (∀ bits mask : Byte, decode (packWord s.op s.a s.b) = .ok (.setcdir bits mask) →
      setsDirections s.profile.cmap mask bits s t ∧
      ∀ i : Fin 8, mask.getLsbD i.val = true → t.paired s.profile.cmap[i].port s.profile.cmap[i].bit)

/-- Neither the handler, wherever its reads fall, nor any stall changes what SETCDIR does (R163, R164): when it
completes it has its whole net effect and nothing more. That bits no line maps to are not changed by others during
the command is the model's choice (assumption log 17). -/
def Obligations.HandlerNeverDisturbsSetcdir : Prop :=
  ∀ (n : Nat) (s t : State) (bits mask : Byte), s.buildOk = true → s.active = true → s.useq = 0 →
    (s.sspc.busy = true → s.sspc.owner = .hnd) → s.noReset = true →
    decode (packWord s.op s.a s.b) = .ok (.setcdir bits mask) → runUntilDone n s = .next t → t.active = false →
    setsDirections s.profile.cmap mask bits s t ∧ (∀ p b : Nat, t.mem.bit .out p b = s.mem.bit .out p b) ∧
      t.res = 0x00#8 ∧ t.profile = s.profile ∧ t.op = s.op ∧ t.a = s.a ∧ t.b = s.b ∧ t.cmds = s.cmds

/-! ## Pins and notation -/

/-- The pins (R151, R57), for any bytes exchanged: at the rising edges of `SCK` the device samples the bytes sent on
`SDO` and the block those received on `SDI`, each byte most significant bit first; data changes on falling edges
only; `SEL` is at physical 0 during the exchange and at 1 after it, with `SCK` at 0. In a transaction `SDO` carries
the frame, and the bits of byte 2 sampled on `SDI` shift in to the byte received (R152). How the edges of `SEL` lie
is assumption log 22. -/
def Obligations.WaveformCarriesTheFrame : Prop :=
  (∀ xs : List (Byte × Byte),
    (sampledBits (·.sdo) (exchangeWave xs) =
      xs.flatMap fun x => [x.1.getLsbD 7, x.1.getLsbD 6, x.1.getLsbD 5, x.1.getLsbD 4, x.1.getLsbD 3,
        x.1.getLsbD 2, x.1.getLsbD 1, x.1.getLsbD 0]) ∧
    (sampledBits (·.sdi) (exchangeWave xs) =
      xs.flatMap fun x => [x.2.getLsbD 7, x.2.getLsbD 6, x.2.getLsbD 5, x.2.getLsbD 4, x.2.getLsbD 3,
        x.2.getLsbD 2, x.2.getLsbD 1, x.2.getLsbD 0]) ∧
    (∀ (k : Nat) (x y : Pins), (exchangeWave xs)[k]? = some x → (exchangeWave xs)[k + 1]? = some y →
      x.sdo ≠ y.sdo ∨ x.sdi ≠ y.sdi → x.sck = true ∧ y.sck = false) ∧
    (∀ x ∈ (exchangeWave xs).dropLast, x.sel = false) ∧
    ∀ x : Pins, (exchangeWave xs).getLast? = some x → x.sel = true ∧ x.sck = false) ∧
  ∀ (q : Request) (s : State),
    sampledBits (·.sdo) (q.wave s) = (q.frame s.profile).flatMap wireBits ∧
    ((sampledBits (·.sdi) (q.wave s)).drop 16).foldl shiftIn 0x00#8 = q.received s

/-- The pseudo-instructions stand for their expansions (R93). -/
def Obligations.PseudoInstructionsExpand : Prop :=
  Asm.command .release [] = some .prepin ∧
  ∀ (x : List Char) (mask : Byte), Asm.operand Asm.bitSymbols x = some mask →
    Asm.command .setmode [x, ['I', 'N']] = some (.setcdir 0x00#8 mask) ∧
    Asm.command .setmode [x, ['O', 'U', 'T']] = some (.setcdir 0xFF#8 mask) ∧
    Asm.command .assert [x] = some (.setcst mask mask) ∧
    Asm.command .unassert [x] = some (.setcst 0x00#8 mask)
end

