-- ==== Sys2Proof/Laws/Fragments.lean ====
section
/-! SUPPORT. What the fragment functions of Machine/Operands.lean do, bit by bit. -/

namespace Sys2Proof.Machine

@[simp] theorem getLsbD_ofBits (w : Nat) (f : Nat → Bool) (b : Nat) :
    (ofBits w f).getLsbD b = (decide (b < w) && f b) := by
  induction w with
  | zero => simp [ofBits]
  | succ w ih =>
    simp only [ofBits, BitVec.getLsbD_cons, ih]
    by_cases h : b = w
    · subst h; simp
    · have : (b < w + 1) = (b < w) := by simp only [eq_iff_iff]; omega
      simp [h, this]

theorem getLsbD_one_shift (w b c : Nat) : (1#w <<< b).getLsbD c = decide (c = b ∧ c < w) := by
  by_cases hc : c < w
  · by_cases hb : c = b
    · subst hb; simp [hc]
    · by_cases hlt : c < b
      · simp [hc, hb, hlt]
      · have : c - b ≠ 0 := by omega
        simp [hc, hb, hlt, this]
  · simp [hc]

theorem getLsbD_setBit {w : Nat} (r : BitVec w) (b c : Nat) (v : Bool) :
    (setBit r b v).getLsbD c = if c = b ∧ c < w then v else r.getLsbD c := by
  have hge : ¬c < w → r.getLsbD c = false := fun h => BitVec.getLsbD_of_ge r c (by omega)
  cases v
  · rw [setBit, if_neg Bool.false_ne_true, BitVec.getLsbD_and, BitVec.getLsbD_not, getLsbD_one_shift]
    by_cases hw : c < w
    · by_cases hb : c = b <;> simp only [hw, hb] <;> simp
      · intro h; exact absurd (hb ▸ hw) (by omega)
    · simp only [hge hw, hw, Bool.false_and, and_false, if_false]
  · rw [setBit, if_pos rfl, BitVec.getLsbD_or, getLsbD_one_shift]
    by_cases h : c = b ∧ c < w
    · rw [if_pos h, decide_eq_true h, Bool.or_true]
    · rw [if_neg h, decide_eq_false h, Bool.or_false]

/-- A bit no line of the list lands on is what it was. -/
theorem foldl_spread_miss {w : Nat} (map : LineMap) (p b : Nat) (f : Fin 8 → Line → Bool) :
    ∀ (l : List (Fin 8)) (r : BitVec w), (∀ i ∈ l, map[i].port = p → map[i].bit ≠ b) →
      (l.foldl (fun r i => if map[i].port = p then setBit r map[i].bit (f i map[i]) else r) r).getLsbD b =
        r.getLsbD b := by
  intro l
  induction l with
  | nil => intro r _; rfl
  | cons a l ih =>
    intro r h
    rw [List.foldl_cons, ih _ fun i hi => h i (List.mem_cons_of_mem _ hi)]
    split
    · rename_i hp
      have := h a (List.mem_cons_self ..) hp
      rw [getLsbD_setBit, if_neg (by omega)]
    · rfl

/-- A bit exactly one line of the list lands on takes that line's value. -/
theorem foldl_spread_hit {w : Nat} (map : LineMap) (i : Fin 8) (f : Fin 8 → Line → Bool)
    (hb : map[i].bit < w) (hu : ∀ j : Fin 8, map[j].port = map[i].port → map[j].bit = map[i].bit → j = i) :
    ∀ (l : List (Fin 8)) (r : BitVec w), i ∈ l →
      (l.foldl (fun r j => if map[j].port = map[i].port then setBit r map[j].bit (f j map[j]) else r) r).getLsbD
        map[i].bit = f i map[i] := by
  intro l
  induction l with
  | nil => intro r h; cases h
  | cons a l ih =>
    intro r h
    rw [List.foldl_cons]
    by_cases hl : i ∈ l
    · exact ih _ hl
    · have hai : a = i := by
        cases List.mem_cons.mp h with
        | inl h => exact h.symm
        | inr h => exact absurd h hl
      rw [foldl_spread_miss _ _ _ _ _ _ fun j hj hp hbit => hl (hu j hp hbit ▸ hj)]
      subst hai
      rw [if_pos rfl, getLsbD_setBit, if_pos ⟨rfl, hb⟩]

theorem mem_positions (i : Fin 8) : i ∈ positions := by
  revert i; decide

/-- The bit of a line in a spread value. -/
theorem getLsbD_spread_line {w : Nat} (map : LineMap) (i : Fin 8) (f : Fin 8 → Line → Bool)
    (hb : map[i].bit < w) (hu : ∀ j : Fin 8, map[j].port = map[i].port → map[j].bit = map[i].bit → j = i) :
    (spread map map[i].port f : BitVec w).getLsbD map[i].bit = f i map[i] :=
  foldl_spread_hit map i f hb hu positions 0#w (mem_positions i)

/-- A bit that carries no line of the map on this port is 0 in a spread value. -/
theorem getLsbD_spread_other {w : Nat} (map : LineMap) (p b : Nat) (f : Fin 8 → Line → Bool)
    (h : ∀ i : Fin 8, map[i].port = p → map[i].bit ≠ b) : (spread map p f : BitVec w).getLsbD b = false := by
  unfold spread
  rw [foldl_spread_miss map p b f positions 0#w fun i _ => h i]
  simp

/-! ## What a well-formed profile says of its lines -/

theorem mem_lines_dmap (pf : Profile) (i : Fin 8) : pf.dmap[i] ∈ pf.dmap.toList ++ pf.cmap.toList :=
  List.mem_append_left _ (Vector.mem_toList_iff.mpr (Vector.getElem_mem i.isLt))

theorem mem_lines_cmap (pf : Profile) (i : Fin 8) : pf.cmap[i] ∈ pf.dmap.toList ++ pf.cmap.toList :=
  List.mem_append_right _ (Vector.mem_toList_iff.mpr (Vector.getElem_mem i.isLt))

/-- The six checks of a well-formed profile. -/
theorem wf_checks {pf : Profile} (h : pf.wf = true) :
    pf.linesOnPorts = true ∧ pf.linesDistinct = true ∧ pf.linesInverting = true ∧ pf.portsAscending = true ∧
      pf.portsOfKind = true ∧ pf.idsDistinct = true := by
  simpa [Profile.wf, and_assoc] using h

theorem wf_line {pf : Profile} (h : pf.wf = true) {l : Line} (hl : l ∈ pf.dmap.toList ++ pf.cmap.toList) :
    l.port ∈ pf.ports ∧ l.bit < Config.width pf.kind ∧ l.pol = true := by
  obtain ⟨h1, -, h3, -⟩ := wf_checks h
  have h1 := List.all_eq_true.mp h1 l hl
  have h3 := List.all_eq_true.mp h3 l hl
  simp only [Bool.and_eq_true, List.contains_iff_mem, decide_eq_true_eq] at h1
  exact ⟨h1.1, h1.2, h3⟩

theorem lineBits_eq (pf : Profile) :
    pf.lineBits = pf.dmap.toList.map (fun l => (l.port, l.bit)) ++ pf.cmap.toList.map fun l => (l.port, l.bit) := by
  simp [Profile.lineBits]

/-- Two data lines never share a physical bit. -/
theorem wf_dmap_injective {pf : Profile} (h : pf.wf = true) (i j : Fin 8)
    (hp : pf.dmap[j].port = pf.dmap[i].port) (hb : pf.dmap[j].bit = pf.dmap[i].bit) : j = i := by
  have hd := of_decide_eq_true (wf_checks h).2.1
  rw [lineBits_eq] at hd
  have hd := (List.nodup_append.mp hd).1
  have := (List.nodup_iff_injective_getElem.mp hd) (a₁ := ⟨j.val, by simp⟩) (a₂ := ⟨i.val, by simp⟩)
    (by simpa using ⟨hp, hb⟩)
  exact Fin.ext (by simpa using this)

/-- Two control lines never share a physical bit. -/
theorem wf_cmap_injective {pf : Profile} (h : pf.wf = true) (i j : Fin 8)
    (hp : pf.cmap[j].port = pf.cmap[i].port) (hb : pf.cmap[j].bit = pf.cmap[i].bit) : j = i := by
  have hd := of_decide_eq_true (wf_checks h).2.1
  rw [lineBits_eq] at hd
  have hd := (List.nodup_append.mp hd).2.1
  have := (List.nodup_iff_injective_getElem.mp hd) (a₁ := ⟨j.val, by simp⟩) (a₂ := ⟨i.val, by simp⟩)
    (by simpa using ⟨hp, hb⟩)
  exact Fin.ext (by simpa using this)

/-- A data line and a control line never share a physical bit. -/
theorem wf_dmap_cmap_disjoint {pf : Profile} (h : pf.wf = true) (i j : Fin 8)
    (hp : pf.dmap[i].port = pf.cmap[j].port) : pf.dmap[i].bit ≠ pf.cmap[j].bit := by
  intro hb
  have hd := of_decide_eq_true (wf_checks h).2.1
  rw [lineBits_eq] at hd
  refine (List.nodup_append.mp hd).2.2 (pf.dmap[i].port, pf.dmap[i].bit)
    (List.mem_map.mpr ⟨_, Vector.mem_toList_iff.mpr (Vector.getElem_mem i.isLt), rfl⟩) _
    (List.mem_map.mpr ⟨_, Vector.mem_toList_iff.mpr (Vector.getElem_mem j.isLt), rfl⟩) ?_
  exact Prod.ext hp hb

end Sys2Proof.Machine
end

