-- ==== Sys2Proof/Laws/State.lean ====
section
/-! SUPPORT. One lemma per field per update of the state, so that no proof unfolds a record update. -/

namespace Sys2Proof.Machine

/-! ### complete -/

@[simp] theorem State.complete_profile (s : State) (r : Byte) : (s.complete r).profile = s.profile := rfl
@[simp] theorem State.complete_mem (s : State) (r : Byte) : (s.complete r).mem = s.mem := rfl
@[simp] theorem State.complete_op (s : State) (r : Byte) : (s.complete r).op = s.op := rfl
@[simp] theorem State.complete_a (s : State) (r : Byte) : (s.complete r).a = s.a := rfl
@[simp] theorem State.complete_b (s : State) (r : Byte) : (s.complete r).b = s.b := rfl
@[simp] theorem State.complete_res (s : State) (r : Byte) : (s.complete r).res = r := rfl
@[simp] theorem State.complete_active (s : State) (r : Byte) : (s.complete r).active = false := rfl
@[simp] theorem State.complete_useq (s : State) (r : Byte) : (s.complete r).useq = s.useq := rfl
@[simp] theorem State.complete_t (s : State) (r : Byte) : (s.complete r).t = s.t := rfl
@[simp] theorem State.complete_samples (s : State) (r : Byte) : (s.complete r).samples = [] := rfl
@[simp] theorem State.complete_sspc (s : State) (r : Byte) : (s.complete r).sspc = s.sspc := rfl
@[simp] theorem State.complete_hpend (s : State) (r : Byte) : (s.complete r).hpend = s.hpend := rfl
@[simp] theorem State.complete_hdata (s : State) (r : Byte) : (s.complete r).hdata = s.hdata := rfl
@[simp] theorem State.complete_cmds (s : State) (r : Byte) : (s.complete r).cmds = s.cmds := rfl
@[simp] theorem State.complete_env (s : State) (r : Byte) : (s.complete r).env = s.env := rfl
@[simp] theorem State.complete_script (s : State) (r : Byte) : (s.complete r).script = s.script := rfl
@[simp] theorem State.complete_drawCount (s : State) (r : Byte) : (s.complete r).drawCount = s.drawCount := rfl

/-! ### keepSample -/

@[simp] theorem State.keepSample_profile (s : State) (p : Nat) (v : Word32) : (s.keepSample p v).profile = s.profile := rfl
@[simp] theorem State.keepSample_mem (s : State) (p : Nat) (v : Word32) : (s.keepSample p v).mem = s.mem := rfl
@[simp] theorem State.keepSample_op (s : State) (p : Nat) (v : Word32) : (s.keepSample p v).op = s.op := rfl
@[simp] theorem State.keepSample_a (s : State) (p : Nat) (v : Word32) : (s.keepSample p v).a = s.a := rfl
@[simp] theorem State.keepSample_b (s : State) (p : Nat) (v : Word32) : (s.keepSample p v).b = s.b := rfl
@[simp] theorem State.keepSample_res (s : State) (p : Nat) (v : Word32) : (s.keepSample p v).res = s.res := rfl
@[simp] theorem State.keepSample_active (s : State) (p : Nat) (v : Word32) : (s.keepSample p v).active = s.active := rfl
@[simp] theorem State.keepSample_useq (s : State) (p : Nat) (v : Word32) : (s.keepSample p v).useq = s.useq := rfl
@[simp] theorem State.keepSample_t (s : State) (p : Nat) (v : Word32) : (s.keepSample p v).t = s.t := rfl
@[simp] theorem State.keepSample_samples (s : State) (p : Nat) (v : Word32) : (s.keepSample p v).samples = (p, v) :: s.samples := rfl
@[simp] theorem State.keepSample_sspc (s : State) (p : Nat) (v : Word32) : (s.keepSample p v).sspc = s.sspc := rfl
@[simp] theorem State.keepSample_hpend (s : State) (p : Nat) (v : Word32) : (s.keepSample p v).hpend = s.hpend := rfl
@[simp] theorem State.keepSample_hdata (s : State) (p : Nat) (v : Word32) : (s.keepSample p v).hdata = s.hdata := rfl
@[simp] theorem State.keepSample_cmds (s : State) (p : Nat) (v : Word32) : (s.keepSample p v).cmds = s.cmds := rfl
@[simp] theorem State.keepSample_env (s : State) (p : Nat) (v : Word32) : (s.keepSample p v).env = s.env := rfl
@[simp] theorem State.keepSample_script (s : State) (p : Nat) (v : Word32) : (s.keepSample p v).script = s.script := rfl
@[simp] theorem State.keepSample_drawCount (s : State) (p : Nat) (v : Word32) : (s.keepSample p v).drawCount = s.drawCount + 1 := rfl

/-! ### maskedWrite -/

@[simp] theorem maskedWrite_profile (r : Reg) (p : Nat) (pm pv : Byte) (s : State) : (maskedWrite r p pm pv s).profile = s.profile := rfl
@[simp] theorem maskedWrite_mem (r : Reg) (p : Nat) (pm pv : Byte) (s : State) : (maskedWrite r p pm pv s).mem = s.mem.modify8 p fun g => g.masked r pm pv := rfl
@[simp] theorem maskedWrite_op (r : Reg) (p : Nat) (pm pv : Byte) (s : State) : (maskedWrite r p pm pv s).op = s.op := rfl
@[simp] theorem maskedWrite_a (r : Reg) (p : Nat) (pm pv : Byte) (s : State) : (maskedWrite r p pm pv s).a = s.a := rfl
@[simp] theorem maskedWrite_b (r : Reg) (p : Nat) (pm pv : Byte) (s : State) : (maskedWrite r p pm pv s).b = s.b := rfl
@[simp] theorem maskedWrite_res (r : Reg) (p : Nat) (pm pv : Byte) (s : State) : (maskedWrite r p pm pv s).res = s.res := rfl
@[simp] theorem maskedWrite_active (r : Reg) (p : Nat) (pm pv : Byte) (s : State) : (maskedWrite r p pm pv s).active = s.active := rfl
@[simp] theorem maskedWrite_useq (r : Reg) (p : Nat) (pm pv : Byte) (s : State) : (maskedWrite r p pm pv s).useq = s.useq := rfl
@[simp] theorem maskedWrite_t (r : Reg) (p : Nat) (pm pv : Byte) (s : State) : (maskedWrite r p pm pv s).t = s.t := rfl
@[simp] theorem maskedWrite_samples (r : Reg) (p : Nat) (pm pv : Byte) (s : State) : (maskedWrite r p pm pv s).samples = s.samples := rfl
@[simp] theorem maskedWrite_sspc (r : Reg) (p : Nat) (pm pv : Byte) (s : State) : (maskedWrite r p pm pv s).sspc = s.sspc := rfl
@[simp] theorem maskedWrite_hpend (r : Reg) (p : Nat) (pm pv : Byte) (s : State) : (maskedWrite r p pm pv s).hpend = s.hpend := rfl
@[simp] theorem maskedWrite_hdata (r : Reg) (p : Nat) (pm pv : Byte) (s : State) : (maskedWrite r p pm pv s).hdata = s.hdata := rfl
@[simp] theorem maskedWrite_cmds (r : Reg) (p : Nat) (pm pv : Byte) (s : State) : (maskedWrite r p pm pv s).cmds = s.cmds := rfl
@[simp] theorem maskedWrite_env (r : Reg) (p : Nat) (pm pv : Byte) (s : State) : (maskedWrite r p pm pv s).env = s.env := rfl
@[simp] theorem maskedWrite_script (r : Reg) (p : Nat) (pm pv : Byte) (s : State) : (maskedWrite r p pm pv s).script = s.script := rfl
@[simp] theorem maskedWrite_drawCount (r : Reg) (p : Nat) (pm pv : Byte) (s : State) : (maskedWrite r p pm pv s).drawCount = s.drawCount := rfl

/-! ### wideMasked -/

@[simp] theorem wideMasked_profile (r : Reg) (m v : Word32) (s : State) : (wideMasked r m v s).profile = s.profile := rfl
@[simp] theorem wideMasked_mem (r : Reg) (m v : Word32) (s : State) : (wideMasked r m v s).mem = s.mem.modify32 fun g => g.masked r m v := rfl
@[simp] theorem wideMasked_op (r : Reg) (m v : Word32) (s : State) : (wideMasked r m v s).op = s.op := rfl
@[simp] theorem wideMasked_a (r : Reg) (m v : Word32) (s : State) : (wideMasked r m v s).a = s.a := rfl
@[simp] theorem wideMasked_b (r : Reg) (m v : Word32) (s : State) : (wideMasked r m v s).b = s.b := rfl
@[simp] theorem wideMasked_res (r : Reg) (m v : Word32) (s : State) : (wideMasked r m v s).res = s.res := rfl
@[simp] theorem wideMasked_active (r : Reg) (m v : Word32) (s : State) : (wideMasked r m v s).active = s.active := rfl
@[simp] theorem wideMasked_useq (r : Reg) (m v : Word32) (s : State) : (wideMasked r m v s).useq = s.useq := rfl
@[simp] theorem wideMasked_t (r : Reg) (m v : Word32) (s : State) : (wideMasked r m v s).t = s.t := rfl
@[simp] theorem wideMasked_samples (r : Reg) (m v : Word32) (s : State) : (wideMasked r m v s).samples = s.samples := rfl
@[simp] theorem wideMasked_sspc (r : Reg) (m v : Word32) (s : State) : (wideMasked r m v s).sspc = s.sspc := rfl
@[simp] theorem wideMasked_hpend (r : Reg) (m v : Word32) (s : State) : (wideMasked r m v s).hpend = s.hpend := rfl
@[simp] theorem wideMasked_hdata (r : Reg) (m v : Word32) (s : State) : (wideMasked r m v s).hdata = s.hdata := rfl
@[simp] theorem wideMasked_cmds (r : Reg) (m v : Word32) (s : State) : (wideMasked r m v s).cmds = s.cmds := rfl
@[simp] theorem wideMasked_env (r : Reg) (m v : Word32) (s : State) : (wideMasked r m v s).env = s.env := rfl
@[simp] theorem wideMasked_script (r : Reg) (m v : Word32) (s : State) : (wideMasked r m v s).script = s.script := rfl
@[simp] theorem wideMasked_drawCount (r : Reg) (m v : Word32) (s : State) : (wideMasked r m v s).drawCount = s.drawCount := rfl

/-! ### accept -/

@[simp] theorem State.accept_profile (s : State) (w : CommandWord) (rest : List CommandWord) : (s.accept w rest).profile = s.profile := rfl
@[simp] theorem State.accept_mem (s : State) (w : CommandWord) (rest : List CommandWord) : (s.accept w rest).mem = s.mem := rfl
@[simp] theorem State.accept_op (s : State) (w : CommandWord) (rest : List CommandWord) : (s.accept w rest).op = w.extractLsb' 16 8 := rfl
@[simp] theorem State.accept_a (s : State) (w : CommandWord) (rest : List CommandWord) : (s.accept w rest).a = w.extractLsb' 8 8 := rfl
@[simp] theorem State.accept_b (s : State) (w : CommandWord) (rest : List CommandWord) : (s.accept w rest).b = w.extractLsb' 0 8 := rfl
@[simp] theorem State.accept_res (s : State) (w : CommandWord) (rest : List CommandWord) : (s.accept w rest).res = s.res := rfl
@[simp] theorem State.accept_active (s : State) (w : CommandWord) (rest : List CommandWord) : (s.accept w rest).active = true := rfl
@[simp] theorem State.accept_useq (s : State) (w : CommandWord) (rest : List CommandWord) : (s.accept w rest).useq = 0 := rfl
@[simp] theorem State.accept_t (s : State) (w : CommandWord) (rest : List CommandWord) : (s.accept w rest).t = s.t := rfl
@[simp] theorem State.accept_samples (s : State) (w : CommandWord) (rest : List CommandWord) : (s.accept w rest).samples = [] := rfl
@[simp] theorem State.accept_sspc (s : State) (w : CommandWord) (rest : List CommandWord) : (s.accept w rest).sspc = s.sspc := rfl
@[simp] theorem State.accept_hpend (s : State) (w : CommandWord) (rest : List CommandWord) : (s.accept w rest).hpend = s.hpend := rfl
@[simp] theorem State.accept_hdata (s : State) (w : CommandWord) (rest : List CommandWord) : (s.accept w rest).hdata = s.hdata := rfl
@[simp] theorem State.accept_cmds (s : State) (w : CommandWord) (rest : List CommandWord) : (s.accept w rest).cmds = rest := rfl
@[simp] theorem State.accept_env (s : State) (w : CommandWord) (rest : List CommandWord) : (s.accept w rest).env = s.env := rfl
@[simp] theorem State.accept_script (s : State) (w : CommandWord) (rest : List CommandWord) : (s.accept w rest).script = s.script := rfl
@[simp] theorem State.accept_drawCount (s : State) (w : CommandWord) (rest : List CommandWord) : (s.accept w rest).drawCount = s.drawCount := rfl

/-! ### applyReset -/

@[simp] theorem State.applyReset_profile (s : State) : (s.applyReset).profile = s.profile := rfl
@[simp] theorem State.applyReset_mem (s : State) : (s.applyReset).mem = s.mem := rfl
@[simp] theorem State.applyReset_op (s : State) : (s.applyReset).op = s.op := rfl
@[simp] theorem State.applyReset_a (s : State) : (s.applyReset).a = s.a := rfl
@[simp] theorem State.applyReset_b (s : State) : (s.applyReset).b = s.b := rfl
@[simp] theorem State.applyReset_res (s : State) : (s.applyReset).res = s.res := rfl
@[simp] theorem State.applyReset_active (s : State) : (s.applyReset).active = false := rfl
@[simp] theorem State.applyReset_useq (s : State) : (s.applyReset).useq = s.useq := rfl
@[simp] theorem State.applyReset_t (s : State) : (s.applyReset).t = s.t := rfl
@[simp] theorem State.applyReset_samples (s : State) : (s.applyReset).samples = s.samples := rfl
@[simp] theorem State.applyReset_sspc (s : State) : (s.applyReset).sspc = { s.sspc with sel := false, busy := false } := rfl
@[simp] theorem State.applyReset_hpend (s : State) : (s.applyReset).hpend = false := rfl
@[simp] theorem State.applyReset_hdata (s : State) : (s.applyReset).hdata = s.hdata := rfl
@[simp] theorem State.applyReset_cmds (s : State) : (s.applyReset).cmds = s.cmds := rfl
@[simp] theorem State.applyReset_env (s : State) : (s.applyReset).env = s.env := rfl
@[simp] theorem State.applyReset_script (s : State) : (s.applyReset).script = s.script := rfl
@[simp] theorem State.applyReset_drawCount (s : State) : (s.applyReset).drawCount = s.drawCount := rfl

/-! ### Updates by cases -/

@[simp] theorem State.advance_profile (s : State) (len : Nat) (r : Byte) : (s.advance len r).profile = s.profile := by
  unfold State.advance; split <;> rfl
@[simp] theorem State.advance_mem (s : State) (len : Nat) (r : Byte) : (s.advance len r).mem = s.mem := by
  unfold State.advance; split <;> rfl
@[simp] theorem State.advance_op (s : State) (len : Nat) (r : Byte) : (s.advance len r).op = s.op := by
  unfold State.advance; split <;> rfl
@[simp] theorem State.advance_a (s : State) (len : Nat) (r : Byte) : (s.advance len r).a = s.a := by
  unfold State.advance; split <;> rfl
@[simp] theorem State.advance_b (s : State) (len : Nat) (r : Byte) : (s.advance len r).b = s.b := by
  unfold State.advance; split <;> rfl
@[simp] theorem State.advance_t (s : State) (len : Nat) (r : Byte) : (s.advance len r).t = s.t := by
  unfold State.advance; split <;> rfl
@[simp] theorem State.advance_sspc (s : State) (len : Nat) (r : Byte) : (s.advance len r).sspc = s.sspc := by
  unfold State.advance; split <;> rfl
@[simp] theorem State.advance_hpend (s : State) (len : Nat) (r : Byte) : (s.advance len r).hpend = s.hpend := by
  unfold State.advance; split <;> rfl
@[simp] theorem State.advance_hdata (s : State) (len : Nat) (r : Byte) : (s.advance len r).hdata = s.hdata := by
  unfold State.advance; split <;> rfl
@[simp] theorem State.advance_cmds (s : State) (len : Nat) (r : Byte) : (s.advance len r).cmds = s.cmds := by
  unfold State.advance; split <;> rfl
@[simp] theorem State.advance_env (s : State) (len : Nat) (r : Byte) : (s.advance len r).env = s.env := by
  unfold State.advance; split <;> rfl
@[simp] theorem State.advance_script (s : State) (len : Nat) (r : Byte) : (s.advance len r).script = s.script := by
  unfold State.advance; split <;> rfl
@[simp] theorem State.advance_drawCount (s : State) (len : Nat) (r : Byte) : (s.advance len r).drawCount = s.drawCount := by
  unfold State.advance; split <;> rfl
@[simp] theorem State.advance_useq (s : State) (len : Nat) (r : Byte) : (s.advance len r).useq = s.useq + 1 := by
  unfold State.advance; split <;> rfl

/-- Before the last micro-operation the command goes on. -/
theorem State.advance_of_lt {s : State} {len : Nat} (r : Byte) (h : s.useq + 1 < len) :
    s.advance len r = { s with useq := s.useq + 1 } := by
  unfold State.advance; rw [if_pos h]

/-- At the last micro-operation the command completes. -/
theorem State.advance_of_le {s : State} {len : Nat} (r : Byte) (h : len ≤ s.useq + 1) :
    s.advance len r = { s with useq := s.useq + 1 }.complete r := by
  unfold State.advance; rw [if_neg (by omega)]

@[simp] theorem State.nextEnv_profile (s : State) : s.nextEnv.profile = s.profile := by
  unfold State.nextEnv; split <;> rfl
@[simp] theorem State.nextEnv_mem (s : State) : s.nextEnv.mem = s.mem := by
  unfold State.nextEnv; split <;> rfl
@[simp] theorem State.nextEnv_op (s : State) : s.nextEnv.op = s.op := by
  unfold State.nextEnv; split <;> rfl
@[simp] theorem State.nextEnv_a (s : State) : s.nextEnv.a = s.a := by
  unfold State.nextEnv; split <;> rfl
@[simp] theorem State.nextEnv_b (s : State) : s.nextEnv.b = s.b := by
  unfold State.nextEnv; split <;> rfl
@[simp] theorem State.nextEnv_res (s : State) : s.nextEnv.res = s.res := by
  unfold State.nextEnv; split <;> rfl
@[simp] theorem State.nextEnv_active (s : State) : s.nextEnv.active = s.active := by
  unfold State.nextEnv; split <;> rfl
@[simp] theorem State.nextEnv_useq (s : State) : s.nextEnv.useq = s.useq := by
  unfold State.nextEnv; split <;> rfl
@[simp] theorem State.nextEnv_t (s : State) : s.nextEnv.t = s.t := by
  unfold State.nextEnv; split <;> rfl
@[simp] theorem State.nextEnv_samples (s : State) : s.nextEnv.samples = s.samples := by
  unfold State.nextEnv; split <;> rfl
@[simp] theorem State.nextEnv_sspc (s : State) : s.nextEnv.sspc = s.sspc := by
  unfold State.nextEnv; split <;> rfl
@[simp] theorem State.nextEnv_hpend (s : State) : s.nextEnv.hpend = s.hpend := by
  unfold State.nextEnv; split <;> rfl
@[simp] theorem State.nextEnv_hdata (s : State) : s.nextEnv.hdata = s.hdata := by
  unfold State.nextEnv; split <;> rfl
@[simp] theorem State.nextEnv_cmds (s : State) : s.nextEnv.cmds = s.cmds := by
  unfold State.nextEnv; split <;> rfl
@[simp] theorem State.nextEnv_drawCount (s : State) : s.nextEnv.drawCount = s.drawCount := by
  unfold State.nextEnv; split <;> rfl

@[simp] theorem State.applyNotify_profile (s : State) : s.applyNotify.profile = s.profile := by
  unfold State.applyNotify; split <;> rfl
@[simp] theorem State.applyNotify_mem (s : State) : s.applyNotify.mem = s.mem := by
  unfold State.applyNotify; split <;> rfl
@[simp] theorem State.applyNotify_op (s : State) : s.applyNotify.op = s.op := by
  unfold State.applyNotify; split <;> rfl
@[simp] theorem State.applyNotify_a (s : State) : s.applyNotify.a = s.a := by
  unfold State.applyNotify; split <;> rfl
@[simp] theorem State.applyNotify_b (s : State) : s.applyNotify.b = s.b := by
  unfold State.applyNotify; split <;> rfl
@[simp] theorem State.applyNotify_res (s : State) : s.applyNotify.res = s.res := by
  unfold State.applyNotify; split <;> rfl
@[simp] theorem State.applyNotify_active (s : State) : s.applyNotify.active = s.active := by
  unfold State.applyNotify; split <;> rfl
@[simp] theorem State.applyNotify_useq (s : State) : s.applyNotify.useq = s.useq := by
  unfold State.applyNotify; split <;> rfl
@[simp] theorem State.applyNotify_t (s : State) : s.applyNotify.t = s.t := by
  unfold State.applyNotify; split <;> rfl
@[simp] theorem State.applyNotify_samples (s : State) : s.applyNotify.samples = s.samples := by
  unfold State.applyNotify; split <;> rfl
@[simp] theorem State.applyNotify_sspc (s : State) : s.applyNotify.sspc = s.sspc := by
  unfold State.applyNotify; split <;> rfl
@[simp] theorem State.applyNotify_hdata (s : State) : s.applyNotify.hdata = s.hdata := by
  unfold State.applyNotify; split <;> rfl
@[simp] theorem State.applyNotify_cmds (s : State) : s.applyNotify.cmds = s.cmds := by
  unfold State.applyNotify; split <;> rfl
@[simp] theorem State.applyNotify_env (s : State) : s.applyNotify.env = s.env := by
  unfold State.applyNotify; split <;> rfl
@[simp] theorem State.applyNotify_script (s : State) : s.applyNotify.script = s.script := by
  unfold State.applyNotify; split <;> rfl
@[simp] theorem State.applyNotify_drawCount (s : State) : s.applyNotify.drawCount = s.drawCount := by
  unfold State.applyNotify; split <;> rfl

@[simp] theorem State.applyForeign_profile (s : State) : s.applyForeign.profile = s.profile := by
  unfold State.applyForeign; split <;> rfl
@[simp] theorem State.applyForeign_op (s : State) : s.applyForeign.op = s.op := by
  unfold State.applyForeign; split <;> rfl
@[simp] theorem State.applyForeign_a (s : State) : s.applyForeign.a = s.a := by
  unfold State.applyForeign; split <;> rfl
@[simp] theorem State.applyForeign_b (s : State) : s.applyForeign.b = s.b := by
  unfold State.applyForeign; split <;> rfl
@[simp] theorem State.applyForeign_res (s : State) : s.applyForeign.res = s.res := by
  unfold State.applyForeign; split <;> rfl
@[simp] theorem State.applyForeign_active (s : State) : s.applyForeign.active = s.active := by
  unfold State.applyForeign; split <;> rfl
@[simp] theorem State.applyForeign_useq (s : State) : s.applyForeign.useq = s.useq := by
  unfold State.applyForeign; split <;> rfl
@[simp] theorem State.applyForeign_t (s : State) : s.applyForeign.t = s.t := by
  unfold State.applyForeign; split <;> rfl
@[simp] theorem State.applyForeign_samples (s : State) : s.applyForeign.samples = s.samples := by
  unfold State.applyForeign; split <;> rfl
@[simp] theorem State.applyForeign_sspc (s : State) : s.applyForeign.sspc = s.sspc := by
  unfold State.applyForeign; split <;> rfl
@[simp] theorem State.applyForeign_hpend (s : State) : s.applyForeign.hpend = s.hpend := by
  unfold State.applyForeign; split <;> rfl
@[simp] theorem State.applyForeign_hdata (s : State) : s.applyForeign.hdata = s.hdata := by
  unfold State.applyForeign; split <;> rfl
@[simp] theorem State.applyForeign_cmds (s : State) : s.applyForeign.cmds = s.cmds := by
  unfold State.applyForeign; split <;> rfl
@[simp] theorem State.applyForeign_env (s : State) : s.applyForeign.env = s.env := by
  unfold State.applyForeign; split <;> rfl
@[simp] theorem State.applyForeign_script (s : State) : s.applyForeign.script = s.script := by
  unfold State.applyForeign; split <;> rfl
@[simp] theorem State.applyForeign_drawCount (s : State) : s.applyForeign.drawCount = s.drawCount := by
  unfold State.applyForeign; split <;> rfl

end Sys2Proof.Machine
end

