-- ==== Sys2Proof/Laws/Ops.lean ====
section
/-! SUPPORT. One lemma per shared operation of Machine/Ops.lean: what it can do. -/

namespace Sys2Proof.Machine

/-! ## Registers -/

@[simp] theorem Regs.get_set_same {w : Nat} (g : Regs w) (r : Reg) (v : BitVec w) : (g.set r v).get r = v := by
  cases r <;> rfl

theorem Regs.get_set_other {w : Nat} (g : Regs w) {r r' : Reg} (v : BitVec w) (h : r' ≠ r) :
    (g.set r v).get r' = g.get r' := by
  cases r <;> cases r' <;> first | rfl | exact absurd rfl h

/-- The masked update, bit by bit (R126). -/
theorem getLsbD_merge {w : Nat} (old pm pv : BitVec w) (b : Nat) :
    (merge old pm pv).getLsbD b = if pm.getLsbD b = true then pv.getLsbD b else old.getLsbD b := by
  rw [merge, BitVec.getLsbD_or, BitVec.getLsbD_and, BitVec.getLsbD_and, BitVec.getLsbD_not]
  by_cases hb : b < w
  · simp only [hb, decide_true, Bool.true_and]
    cases pm.getLsbD b <;> cases old.getLsbD b <;> cases pv.getLsbD b <;> rfl
  · rw [BitVec.getLsbD_of_ge pm b (by omega), BitVec.getLsbD_of_ge old b (by omega)]; simp

/-- A masked update of one register, seen through any register. -/
theorem Regs.get_masked {w : Nat} (g : Regs w) (r r' : Reg) (pm pv : BitVec w) :
    (g.masked r pm pv).get r' = if r' = r then merge (g.get r) pm pv else g.get r' := by
  unfold Regs.masked
  split
  · subst_vars; simp
  · rename_i h; rw [Regs.get_set_other _ _ h]

/-! ## The register space -/

theorem lookup_modify (ps : List (Nat × Regs 8)) (p q : Nat) (f : Regs 8 → Regs 8) :
    (ps.map fun e => if e.1 = p then (e.1, f e.2) else e).lookup q =
      if q = p then (ps.lookup q).map f else ps.lookup q := by
  induction ps with
  | nil => simp
  | cons e ps ih =>
    obtain ⟨k, g⟩ := e
    by_cases hk : k = p <;> by_cases hq : q = k
    · subst hk; subst hq; simp
    · subst hk
      have h : (q == k) = false := by simpa using hq
      simp only [List.map_cons, if_true, List.lookup_cons, h, ih, hq, if_false]
    · subst hq; simp [hk]
    · have h : (q == k) = false := by simpa using hq
      simp only [List.map_cons, hk, if_false, List.lookup_cons, h, ih]

/-- Changing one 8-bit port leaves the others alone. -/
theorem Memory.port8_modify8_other (m : Memory) {p q : Nat} (f : Regs 8 → Regs 8) (h : q ≠ p) :
    (m.modify8 p f).port8 q = m.port8 q := by
  cases m with
  | bytes ps => simp [Memory.modify8, Memory.port8, lookup_modify, h]
  | wide g => rfl

/-- The ports of the register space. -/
def Memory.ids : Memory → List Nat
  | .bytes ps => ps.map (·.1)
  | .wide _ => [0]

/-- Changing a port that exists. -/
theorem Memory.port8_modify8_same {ps : List (Nat × Regs 8)} {p : Nat} (f : Regs 8 → Regs 8)
    (h : p ∈ ps.map (·.1)) : ((Memory.bytes ps).modify8 p f).port8 p = f ((Memory.bytes ps).port8 p) := by
  have : (ps.lookup p).isSome := by
    induction ps with
    | nil => simp at h
    | cons e ps ih =>
      obtain ⟨k, g⟩ := e
      by_cases hq : p = k
      · simp [hq]
      · simp only [List.lookup_cons]
        have hf : (p == k) = false := by simpa using hq
        simp only [hf]
        exact ih (by simpa [hq] using h)
  obtain ⟨g, hg⟩ := Option.isSome_iff_exists.mp this
  simp [Memory.modify8, Memory.port8, lookup_modify, hg]

@[simp] theorem Memory.ids_modify8 (m : Memory) (p : Nat) (f : Regs 8 → Regs 8) : (m.modify8 p f).ids = m.ids := by
  cases m with
  | bytes ps =>
    simp only [Memory.modify8, Memory.ids, List.map_map]
    refine List.map_congr_left fun e _ => ?_
    by_cases h : e.1 = p <;> simp [h]
  | wide g => rfl

@[simp] theorem Memory.ids_modify32 (m : Memory) (f : Regs 32 → Regs 32) : (m.modify32 f).ids = m.ids := by
  cases m <;> rfl

theorem Memory.wf_iff (m : Memory) : m.wf = true ↔ m.ids.Pairwise (· < ·) := by
  cases m <;> simp [Memory.wf, Memory.ids]

/-- Every change of an 8-bit port keeps the canonical form. -/
@[simp] theorem Memory.wf_modify8 (m : Memory) (p : Nat) (f : Regs 8 → Regs 8) : (m.modify8 p f).wf = m.wf := by
  rw [Bool.eq_iff_iff, Memory.wf_iff, Memory.wf_iff, Memory.ids_modify8]

/-- Every change of the 32-bit port keeps the canonical form. -/
@[simp] theorem Memory.wf_modify32 (m : Memory) (f : Regs 32 → Regs 32) : (m.modify32 f).wf = m.wf := by
  rw [Bool.eq_iff_iff, Memory.wf_iff, Memory.wf_iff, Memory.ids_modify32]

/-- A change of an 8-bit port keeps the ports. -/
@[simp] theorem Memory.fits_modify8 (m : Memory) (pf : Profile) (p : Nat) (f : Regs 8 → Regs 8) :
    (m.modify8 p f).fits pf = m.fits pf := by
  have h := Memory.ids_modify8 m p f
  cases m with
  | bytes ps =>
    simp only [Memory.ids, Memory.modify8] at h
    cases hk : pf.kind <;> simp only [Memory.modify8, Memory.fits, hk, h]
  | wide g => rfl

/-- A change of the 32-bit port keeps the ports. -/
@[simp] theorem Memory.fits_modify32 (m : Memory) (pf : Profile) (f : Regs 32 → Regs 32) :
    (m.modify32 f).fits pf = m.fits pf := by
  cases m <;> cases hk : pf.kind <;> simp only [Memory.modify32, Memory.fits, hk]

/-- A foreign change keeps the canonical form. -/
@[simp] theorem Memory.wf_foreignWrite (pf : Profile) (m : Memory) (x : ForeignWrite) :
    (m.foreignWrite pf x).wf = m.wf := by
  unfold Memory.foreignWrite
  split
  · simp
  · split <;> simp

/-- A foreign change keeps the ports. -/
@[simp] theorem Memory.fits_foreignWrite (pf : Profile) (m : Memory) (x : ForeignWrite) :
    (m.foreignWrite pf x).fits pf = m.fits pf := by
  unfold Memory.foreignWrite
  split
  · simp
  · split <;> simp

/-- A bit of an 8-bit port through the common view. -/
theorem Memory.bit_bytes (ps : List (Nat × Regs 8)) (r : Reg) (p b : Nat) :
    (Memory.bytes ps).bit r p b = (((Memory.bytes ps).port8 p).get r).getLsbD b := rfl

/-! ## The serial link -/

/-- What a write does to everything but the registers: nothing. -/
theorem remWrite_eq (id v : Byte) (s : State) : remWrite id v s = { s with mem := (remWrite id v s).mem } := by
  unfold remWrite; split <;> rfl

@[simp] theorem wf_remWrite (id v : Byte) (s : State) : (remWrite id v s).mem.wf = s.mem.wf := by
  unfold remWrite; split <;> simp

@[simp] theorem fits_remWrite (id v : Byte) (s : State) (pf : Profile) :
    (remWrite id v s).mem.fits pf = s.mem.fits pf := by
  unfold remWrite; split <;> simp

/-- A transaction changes the registers only through its effect. -/
theorem Request.effect_eq (q : Request) (s : State) : q.effect s = { s with mem := (q.effect s).mem } := by
  unfold Request.effect
  split
  · rfl
  · exact remWrite_eq ..

/-- A read changes nothing (R58). -/
@[simp] theorem Request.effect_read (q : Request) (s : State) (h : q.rw = .read) : q.effect s = s := by
  simp [Request.effect, h]

/-- Everything a transaction can do: wait because the link is held, complete, or wait for the device. -/
theorem transact_cases (who : Agent) (q : Request) (s : State) :
    (s.sspc.busy = true ∧ s.sspc.owner ≠ who ∧ transact who q s = .waiting s) ∨
    (¬(s.sspc.busy = true ∧ s.sspc.owner ≠ who) ∧ s.env.response = .completes ∧
      transact who q s = .done (q.received s)
        { q.effect s with
          sspc := Sspc.finished who (q.frame s.profile) (q.received s), drawCount := s.drawCount + 1 }) ∨
    (∃ slot landed, ¬(s.sspc.busy = true ∧ s.sspc.owner ≠ who) ∧ s.env.response = .stalls slot landed ∧
      transact who q s = .waiting
        { (if landed = true ∧ stallSlot s.sspc slot.val = 2 then q.effect s else s) with
          sspc := Sspc.waitingAt who (q.frame s.profile) (stallSlot s.sspc slot.val) }) := by
  unfold transact
  by_cases h : s.sspc.busy = true ∧ s.sspc.owner ≠ who
  · exact .inl ⟨h.1, h.2, by rw [if_pos h]⟩
  · rw [if_neg h]
    cases hr : s.env.response with
    | completes => exact .inr (.inl ⟨h, rfl, rfl⟩)
    | stalls slot landed => exact .inr (.inr ⟨slot, landed, h, rfl, rfl⟩)

/-- Everything HND's step can do: nothing, its read, or a wait with the link held. -/
theorem hndStep_cases (s : State) :
    (s.sspc.busy = true ∧ s.sspc.owner ≠ .hnd ∧ hndStep s = s) ∨
    (s.env.response = .completes ∧ hndStep s =
      { s with
        sspc := Sspc.finished .hnd [s.profile.ctrlRd, s.profile.regCap, 0x00#8] (remRead s.profile.regCap s)
        drawCount := s.drawCount + 1, hdata := remRead s.profile.regCap s, hpend := false }) ∨
    (∃ slot landed, s.env.response = .stalls slot landed ∧ hndStep s =
      { s with
        sspc := Sspc.waitingAt .hnd [s.profile.ctrlRd, s.profile.regCap, 0x00#8] (stallSlot s.sspc slot.val) }) := by
  unfold hndStep
  rcases transact_cases .hnd ⟨.read, s.profile.regCap, 0x00#8⟩ s with
    ⟨hb, ho, h⟩ | ⟨-, hr, h⟩ | ⟨slot, landed, -, hr, h⟩
  · exact .inl ⟨hb, ho, by rw [h]⟩
  · exact .inr (.inl ⟨hr, by rw [h, Request.effect_read _ _ rfl]; rfl⟩)
  · exact .inr (.inr ⟨slot, landed, hr, by rw [h, Request.effect_read _ _ rfl, ite_self]; rfl⟩)

/-! ## The machine -/

/-- A word with a reserved opcode completes with 0x00 (R85). -/
theorem execWord_reserved {w : CommandWord} {e : DecodeError} (s : State) (h : decode w = .error e) :
    execWord w s = .next (s.complete 0x00#8) := by
  rw [execWord, h]; rfl

/-- A word that decodes runs its command. -/
theorem execWord_ok {w : CommandWord} {i : Instr} (s : State) (h : decode w = .ok i) : execWord w s = exec i s := by
  rw [execWord, h]

/-- Everything MAIN's step can be: the command in progress, the caller's next word, or nothing. -/
theorem mainStep_cases (s : State) :
    (s.active = true ∧ mainStep s = execWord (packWord s.op s.a s.b) s) ∨
    (s.active = false ∧ s.cmds = [] ∧ mainStep s = .next s) ∨
    (∃ w rest, s.active = false ∧ s.cmds = w :: rest ∧ mainStep s = execWord w (s.accept w rest)) := by
  unfold mainStep
  cases ha : s.active with
  | true => exact .inl ⟨rfl, if_pos rfl⟩
  | false =>
    rw [if_neg Bool.false_ne_true]
    cases hc : s.cmds with
    | nil => exact .inr (.inl ⟨rfl, rfl, rfl⟩)
    | cons w rest => exact .inr (.inr ⟨w, rest, rfl, rfl, rfl⟩)

/-- Everything a step with a next state can be: reset, HND's step, or MAIN's. -/
theorem step_cases {s t : State} (h : step s = .next t) :
    s.buildOk = true ∧
      ((s.nextEnv.env.reset = true ∧ t = s.nextEnv.applyReset) ∨
        (s.nextEnv.env.reset = false ∧ s.inputs.hndMoves = true ∧ t = hndStep s.inputs) ∨
        (s.nextEnv.env.reset = false ∧ s.inputs.hndMoves = false ∧ mainStep s.inputs = .next t)) := by
  unfold step at h
  split at h
  · rename_i hb
    refine ⟨hb, ?_⟩
    split at h
    · rename_i hr; injection h with h; exact .inl ⟨hr, h.symm⟩
    · rename_i hr
      rw [Bool.not_eq_true] at hr
      split at h
      · rename_i hm; injection h with h; exact .inr (.inl ⟨hr, hm, h.symm⟩)
      · rename_i hm; exact .inr (.inr ⟨hr, by simpa using hm, h⟩)
  · cases h

/-! ## The pins -/

/-- Sampling one bit that is put on the line, then the rest. -/
theorem sampledBits_bitWave (line : Pins → Bool) (v : Bool × Bool) (rest : List Pins) :
    sampledBits line (bitWave v ++ rest) =
      line ⟨selPin true, true, v.1, v.2⟩ :: sampledBits line (⟨selPin true, true, v.1, v.2⟩ :: rest) := by
  simp [bitWave, sampledBits]

/-- No rising edge follows a level of `SCK` that is already 1. -/
theorem sampledBits_high (line : Pins → Bool) (x : Pins) (rest : List Pins) (h : x.sck = true) :
    sampledBits line (x :: rest) = sampledBits line rest := by
  cases rest with
  | nil => rfl
  | cons y ys => simp [sampledBits, h]

/-! ## How a command steps -/

/-- On NATIVE a command completes in its one step. -/
@[simp] theorem runNative_active (as : List (Access 8)) (res : Result) (s : State) :
    (runNative as res s).active = false := rfl

/-- A command with no micro-operation completes at once. -/
theorem runRemote_nil (res : Result) (s : State) :
    runRemote [] res s = s.complete (res.eval s.profile s.samples 0x00#8) := by
  simp [runRemote]

/-- A command with no primitive completes at once. -/
theorem runWide_nil (res : Result) (s : State) :
    runWide [] res s = s.complete (res.eval s.profile s.samples 0x00#8) := by
  simp [runWide]

/-- A command that performs no access completes at once on every kind of build. -/
theorem Plan.run_nothing (s : State) : Plan.nothing.run s = s.complete 0x00#8 := by
  unfold Plan.run Plan.nothing
  cases s.profile.kind with
  | native => rfl
  | wide => exact runWide_nil ..
  | remote => exact runRemote_nil ..

/-- No masked write under a zero mask (R129). -/
@[simp] theorem mwList_zero {w : Nat} (r : Reg) (p : Nat) (pv : BitVec w) : mwList r p 0#w pv = [] := if_pos rfl

end Sys2Proof.Machine
end

