-- ==== Sys2Proof/Laws/PerInstr.lean ====
section
/-! SUPPORT. Per-command facts about the encoding, one lemma per constructor. -/

namespace Sys2Proof.Laws.FieldPlacement

/-- The word of a command holds its opcode in bits 23:16, its operands in bits 15:8 and 7:0 (R80). -/
def Statement (i : Instr) : Prop :=
  opField (encode i) = i.opcode ∧ aField (encode i) = i.operandA ∧ bField (encode i) = i.operandB

/-- The fields of a packed word are what was packed. -/
theorem fields_packWord (op a b : Byte) :
    opField (packWord op a b) = op ∧ aField (packWord op a b) = a ∧ bField (packWord op a b) = b := by
  refine ⟨?_, ?_, ?_⟩ <;> apply BitVec.eq_of_getLsbD_eq <;> intro k hk <;>
    simp only [opField, aField, bField, packWord, BitVec.getLsbD_extractLsb', BitVec.getLsbD_append] <;>
    simp only [hk, decide_true, Bool.true_and]
  · rw [if_neg (by omega), if_neg (by omega)]; congr 1; omega
  · rw [if_neg (by omega), if_pos (by omega)]; congr 1; omega
  · rw [if_pos (by omega)]; congr 1; omega

theorem prepin : Statement .prepin := fields_packWord ..
theorem rddata : Statement .rddata := fields_packWord ..
theorem drvdata (value : Byte) : Statement (.drvdata value) := fields_packWord ..
theorem setcst (bits mask : Byte) : Statement (.setcst bits mask) := fields_packWord ..
theorem setcdir (bits mask : Byte) : Statement (.setcdir bits mask) := fields_packWord ..
theorem qpin (index : Byte) : Statement (.qpin index) := fields_packWord ..
theorem rev8 (byte : Byte) : Statement (.rev8 byte) := fields_packWord ..
theorem xrd (id : Byte) : Statement (.xrd id) := fields_packWord ..
theorem xwr (id byte : Byte) : Statement (.xwr id byte) := fields_packWord ..

end Sys2Proof.Laws.FieldPlacement
end

