-- ==== Sys2Proof/Tests/Slice0.lean ====
section
/-! SUPPORT. The model's own tests. Expected values are those of 95_test_vectors.md and of the examples in the
command rules; the section or rule is named at each. -/

namespace Sys2Proof.Tests

open Sys2Proof Sys2Proof.Machine

/-! ## Small states -/

/-- P1 with the registers of ports 0 and 1. -/
def p1 (a b : Regs 8) : State := State.resetOf Config.fixtureP1 (.bytes [(0, a), (1, b)])

/-- P2 with the registers of ports 0 to 2. -/
def p2 (a b c : Regs 8) : State := State.resetOf Config.fixtureP2 (.bytes [(0, a), (1, b), (2, c)])

/-- P3 with the registers of ports A and B. -/
def p3 (a b : Regs 8) : State := State.resetOf Config.fixtureP3 (.bytes [(0, a), (1, b)])

/-- P4 with the registers of its port. -/
def p4 (g : Regs 32) : State := State.resetOf Config.fixtureP4 (.wide g)

def zero8 : Regs 8 := ⟨0#8, 0#8, 0#8⟩
def zero32 : Regs 32 := ⟨0#32, 0#32, 0#32⟩

/-- A command just accepted. -/
def begun (w : CommandWord) (s : State) : State := s.accept w []

/-- Whether an outcome is a next state. -/
def isNext : Host.Outcome State Fault Refusal → Bool
  | .next _ => true
  | .fault _ => false
  | .refused _ => false

/-- The next state of an outcome, if it has one. -/
def after (o : Host.Outcome State Fault Refusal) : State :=
  match o with
  | .next t => t
  | .fault _ => State.reset
  | .refused _ => State.reset

theorem next_after {o : Host.Outcome State Fault Refusal} (h : isNext o = true) : o = .next (after o) := by
  cases o <;> first | rfl | cases h

/-- An environment in which the device does not respond. -/
def stalling : Env := { Env.quiet with response := .stalls 1 false }

/-! ## WellFormed: every check refuses an ill-formed term -/

theorem test_fixtures_wellFormed :
    Config.fixtureP1.wf = true ∧ Config.fixtureP2.wf = true ∧ Config.fixtureP3.wf = true ∧
      Config.fixtureP4.wf = true := by decide

theorem test_wf_line_off_ports : ({ Config.fixtureP1 with ports := [0] } : Profile).linesOnPorts = false := by decide

theorem test_wf_bit_beyond_width :
    ({ Config.fixtureP1 with dmap := Config.fixtureP1.dmap.set 0 (Config.line 0 8) } : Profile).linesOnPorts = false :=
  by decide

theorem test_wf_shared_bit :
    ({ Config.fixtureP1 with dmap := Config.fixtureP1.dmap.set 0 (Config.line 1 7) } : Profile).linesDistinct = false :=
  by decide

theorem test_wf_not_inverting :
    ({ Config.fixtureP1 with dmap := Config.fixtureP1.dmap.set 0 ⟨0, 0, false⟩ } : Profile).linesInverting = false :=
  by decide

theorem test_wf_ports_not_ascending :
    ({ Config.fixtureP1 with ports := [1, 0] } : Profile).portsAscending = false := by decide

theorem test_wf_remote_three_ports :
    ({ Config.fixtureP3 with ports := [0, 1, 2] } : Profile).portsOfKind = false := by decide

theorem test_wf_wide_two_ports : ({ Config.fixtureP4 with ports := [0, 1] } : Profile).portsOfKind = false := by decide

theorem test_wf_capture_shares_id :
    ({ Config.fixtureP3 with regCap := 0x12#8 } : Profile).idsDistinct = false := by decide

theorem test_wf_control_bytes_equal :
    ({ Config.fixtureP3 with ctrlRd := 0x40#8 } : Profile).idsDistinct = false := by decide

theorem test_wf_instr_ids :
    (Instr.xrd 0x77#8).wf Config.fixtureP3 = false ∧ (Instr.xwr 0x10#8 0#8).wf Config.fixtureP3 = false ∧
      (Instr.xrd 0x10#8).wf Config.fixtureP3 = true ∧ (Instr.xrd 0x77#8).wf Config.fixtureP1 = true := by decide

theorem test_memory_wf_rejects_unsorted : (Memory.bytes [(1, zero8), (0, zero8)]).wf = false := by decide

/-! ## Decoding: words of R83, section 3.6 and the programs -/

theorem test_decode_data_bus :
    decode 0x000000#24 = .ok .prepin ∧ decode 0x00A5C3#24 = .ok .prepin ∧ decode 0x01FFFF#24 = .ok .rddata ∧
      decode 0x024100#24 = .ok (.drvdata 0x41#8) := ⟨rfl, rfl, rfl, rfl⟩

theorem test_decode_control_lines :
    decode 0x035A3C#24 = .ok (.setcst 0x5A#8 0x3C#8) ∧ decode 0x04B9FF#24 = .ok (.setcdir 0xB9#8 0xFF#8) ∧
      decode 0x0507AB#24 = .ok (.qpin 7#8) := ⟨rfl, rfl, rfl⟩

theorem test_decode_utilities_and_remote :
    decode 0x06A7FF#24 = .ok (.rev8 0xA7#8) ∧ decode 0x071000#24 = .ok (.xrd 0x10#8) ∧
      decode 0x080D3C#24 = .ok (.xwr 0x0D#8 0x3C#8) := ⟨rfl, rfl, rfl⟩

theorem test_decode_reserved :
    decode 0x090000#24 = .error (.reservedOpcode 0x09#8) ∧ decode 0xFFFFFF#24 = .error (.reservedOpcode 0xFF#8) :=
  ⟨rfl, rfl⟩

theorem test_encode_examples :
    encode (.setcst 0x80#8 0x80#8) = 0x038080#24 ∧ encode (.xwr 0x0D#8 0x3C#8) = 0x080D3C#24 := by decide

theorem test_decodeTableWord :
    decodeTableWord 24 0x080D3C = some (.xwr 0x0D#8 0x3C#8) ∧ decodeTableWord 24 0x7F1234 = none := ⟨rfl, rfl⟩

/-- Every row's word runs as the first command after reset. -/
theorem test_first_step_from_reset :
    ([0x000000, 0x010000, 0x020000, 0x030000, 0x040000, 0x050000, 0x060000, 0x070000, 0x080000].all fun w =>
      isNext (step (State.reset.withFetchWord 24 w))) = true := by decide

/-! ## The bit-permutation unit and the fragments (sections 3.1 and 3.2) -/

theorem test_rev8 : rev8 0xA7#8 = 0xE5#8 ∧ rev8 0x12#8 = 0x48#8 := by decide

theorem test_rotates : rotl8 0x12#8 9 = 0x24#8 ∧ rotr8 0x12#8 9 = 0x09#8 := by decide

theorem test_scatter_p2 :
    scatter Config.fixtureP2.dmap 0xA7#8 0 = 0x10#8 ∧ scatter Config.fixtureP2.dmap 0xA7#8 1 = 0x14#8 := by decide

theorem test_gather_p2 : gather Config.fixtureP2.dmap (fun p => if p = 0 then 0x16#8 else 0x17#8) = 0xA7#8 := by decide

theorem test_control_fragments_p2 :
    smask Config.fixtureP2.cmap 0x13#8 1 = 0xC0#8 ∧ sdir false Config.fixtureP2.cmap 0x12#8 1 &&& 0xC0#8 = 0x80#8 ∧
      aff Config.fixtureP2 Config.fixtureP2.cmap 0x13#8 = [0, 1] := by decide

/-! ## One step of each command (section 4 and the examples of the rules) -/

/-- Program 1, step 1. -/
theorem test_setcdir_native :
    (after (exec (.setcdir 0xB9#8 0xFF#8) (p1 ⟨0#8, 0#8, 0xFF#8⟩ ⟨0xA5#8, 0#8, 0xFF#8⟩))).mem.port8 1 =
      ⟨0xA5#8, 0xB9#8, 0x46#8⟩ := by decide

/-- Program 2, step 3: two ports, the third untouched. -/
theorem test_setcst_scattered :
    (after (exec (.setcst 0x5A#8 0x3C#8)
      (p2 ⟨0x04#8, 0x0F#8, 0xF0#8⟩ ⟨0x03#8, 0xC1#8, 0x3E#8⟩ ⟨0x7C#8, 0x83#8, 0x7C#8⟩))).mem =
      .bytes [(0, ⟨0x06#8, 0x0F#8, 0xF0#8⟩), (1, ⟨0x03#8, 0xC1#8, 0x3E#8⟩), (2, ⟨0x7D#8, 0x83#8, 0x7C#8⟩)] := by
  decide

/-- Program 2, step 4. -/
theorem test_drvdata_scattered :
    (after (exec (.drvdata 0xA7#8)
      (p2 ⟨0x06#8, 0x0F#8, 0xF0#8⟩ ⟨0x03#8, 0xC1#8, 0x3E#8⟩ ⟨0x7D#8, 0x83#8, 0x7C#8⟩))).mem =
      .bytes [(0, ⟨0x16#8, 0xFF#8, 0x00#8⟩), (1, ⟨0x17#8, 0xFD#8, 0x02#8⟩), (2, ⟨0x7D#8, 0x83#8, 0x7C#8⟩)] := by
  decide

/-- Program 2, step 7. -/
theorem test_prepin_scattered :
    (after (exec .prepin
      (p2 ⟨0x16#8, 0xFF#8, 0x00#8⟩ ⟨0x17#8, 0xFD#8, 0x02#8⟩ ⟨0x7D#8, 0x83#8, 0x7C#8⟩))).mem =
      .bytes [(0, ⟨0x16#8, 0x0F#8, 0xF0#8⟩), (1, ⟨0x17#8, 0xC1#8, 0x3E#8⟩), (2, ⟨0x7D#8, 0x83#8, 0x7C#8⟩)] := by
  decide

/-- Section 3.4, the second listener row of P1: another device drives lines low. -/
theorem test_rddata_listener :
    (after (exec .rddata
      { p1 ⟨0#8, 0#8, 0xFF#8⟩ zero8 with
        env := { Env.quiet with ext := [⟨0, 0, false⟩, ⟨0, 3, false⟩] } })).res = 0x09#8 := by decide

/-- Section 3.5, QPIN on P1 with NRFD asserted from outside. -/
theorem test_qpin_native :
    (after (exec (.qpin 2#8)
      { p1 zero8 ⟨0xBD#8, 0xB9#8, 0x46#8⟩ with env := { Env.quiet with ext := [⟨1, 2, false⟩] } })).res = 0x01#8 ∧
    (after (exec (.qpin 1#8) (p1 zero8 ⟨0xBD#8, 0xB9#8, 0x46#8⟩))).res = 0x00#8 := by decide

theorem test_rev8_command : (after (exec (.rev8 0xA7#8) State.reset)).res = 0xE5#8 := by decide

/-- Program 3, step 6: `41 0D 00 -> 3C`. -/
theorem test_xrd :
    (after (exec (.xrd 0x0D#8) (begun 0x070D00#24 (p3 zero8 ⟨0xC3#8, 0#8, 0x3C#8⟩)))).res = 0x3C#8 ∧
    (after (exec (.xrd 0x0D#8) (begun 0x070D00#24 (p3 zero8 ⟨0xC3#8, 0#8, 0x3C#8⟩)))).sspc.sent =
      [0x41#8, 0x0D#8, 0x00#8] := by decide

/-- Program 3, step 5: `40 0D 3C`. -/
theorem test_xwr :
    (after (exec (.xwr 0x0D#8 0x3C#8) (begun 0x080D3C#24 (p3 zero8 ⟨0xC3#8, 0#8, 0#8⟩)))).mem.port8 1 =
      ⟨0xC3#8, 0x00#8, 0x3C#8⟩ := by decide

/-- Section 3.3: XRD off REMOTE returns 00. -/
theorem test_xrd_off_remote : (after (exec (.xrd 0x0D#8) (p1 zero8 zero8))).res = 0x00#8 := by decide

/-! ## WIDE and REMOTE, one micro-operation a step -/

/-- Program 4, step 1, first primitive: `WPULL(002E4000, 0)`. -/
theorem test_wide_first_primitive :
    (after (exec (.setcdir 0xB9#8 0xFF#8) (begun 0x04B9FF#24 (p4 ⟨0xDEAD0021#32, 0x80000001#32, 0x7FFFFFFE#32⟩)))).mem =
      .wide ⟨0xDEAD0021#32, 0x80000001#32, 0x7FD1BFFE#32⟩ := by decide

/-- Program 4, step 3, third primitive: `WPUT(00003FC0, 00002A80)`. -/
theorem test_wide_third_primitive :
    (after (exec (.drvdata 0x55#8)
      { begun 0x025500#24 (p4 ⟨0xDE8D0021#32, 0x802E7FC1#32, 0x7FD1803E#32⟩) with useq := 2 })).mem =
      .wide ⟨0xDE8D2AA1#32, 0x802E7FC1#32, 0x7FD1803E#32⟩ := by decide

/-- Program 3, step 2: `41 12 00 -> 46`, then `40 12 46` (R209 copies line levels). -/
theorem test_remote_setcst_halves :
    (after (exec (.setcst 0x80#8 0x80#8) (begun 0x038080#24 (p3 ⟨0#8, 0x46#8, 0x46#8⟩ zero8)))).t = 0x46#8 ∧
    (after (exec (.setcst 0x80#8 0x80#8)
      { begun 0x038080#24 (p3 ⟨0#8, 0x46#8, 0x46#8⟩ zero8) with useq := 1, t := 0x46#8 })).mem.port8 0 =
      ⟨0x46#8, 0x46#8, 0x46#8⟩ := by decide

/-- Section 3.3, stall: `SEL` asserted, `BUSY = 1`, the pull-up not yet written, no result. -/
theorem test_stall :
    let t := after (exec (.setcdir 0xB9#8 0xFF#8)
      { begun 0x04B9FF#24 (p3 ⟨0#8, 0x46#8, 0xFF#8⟩ zero8) with useq := 2, env := stalling })
    t.sspc.busy = true ∧ t.sspc.sel = true ∧ t.active = true ∧ t.useq = 2 ∧
      t.mem.port8 0 = ⟨0#8, 0x46#8, 0xFF#8⟩ := by decide

/-- Section 3.3, handler: `41 10 00 -> cc`. -/
theorem test_handler :
    let t := after (step
      { p3 zero8 zero8 with hpend := true, env := { Env.quiet with capture := 0x5E#8, turn := .hnd } })
    t.hdata = 0x5E#8 ∧ t.hpend = false ∧ t.sspc.sent = [0x41#8, 0x10#8, 0x00#8] := by decide

/-- Section 3.6: a reserved word returns 00. -/
theorem test_reserved_word :
    (after (step { p1 zero8 zero8 with cmds := [0x7F1234#24], res := 0x55#8 })).res = 0x00#8 := by decide

/-- R151, byte 0 of a read on P3: 41 goes out and 3C comes in, most significant bit first. -/
theorem test_pins :
    sampledBits (·.sdo) (exchangeWave [(0x41#8, 0x3C#8)]) = [false, true, false, false, false, false, false, true] ∧
    (sampledBits (·.sdi) (exchangeWave [(0x41#8, 0x3C#8)])).foldl shiftIn 0x00#8 = 0x3C#8 := by decide

/-- R93, R94: lines of a program. -/
theorem test_assemble :
    Asm.assemble ['A', 'S', 'S', 'E', 'R', 'T', ' ', '#', 'A', 'T', 'N', ' ', ';', 'x'] =
      some (.setcst 0x80#8 0x80#8) ∧
    Asm.assemble ['Q', 'P', 'I', 'N', ' ', '#', 'i', 'D', 'A', 'V'] = some (.qpin 3#8) ∧
    Asm.assemble ['X', 'W', 'R', ' ', '#', '0', 'x', '0', 'D', ',', ' ', '#', '6', '0'] =
      some (.xwr 0x0D#8 0x3C#8) := by decide

/-! ## Witnesses: for every statement with hypotheses, a state and operands that meet them -/

def native : State := begun 0x000000#24 (p1 zero8 zero8)
def wide : State := begun 0x000000#24 (p4 zero32)
def remote : State := begun 0x000000#24 (p3 zero8 zero8)

theorem witness_ReservedOpcodesAreExactlyNineAndAbove : (opField 0x080000#24).toNat < 9 ∧
    9 ≤ (opField 0x090000#24).toNat := by decide

theorem witness_StepRunsTheDecodedCommand :
    let s := { p3 zero8 zero8 with cmds := [0x080D3C#24] }
    (s.buildOk = true ∧ s.nextEnv.env.reset = false ∧ s.inputs.hndMoves = false ∧ s.active = false ∧
      decode 0x080D3C#24 = .ok (.xwr 0x0D#8 0x3C#8)) ∧
    remote.buildOk = true ∧ remote.nextEnv.env.reset = false ∧ remote.inputs.hndMoves = false ∧
      remote.active = true ∧ decode (packWord remote.op remote.a remote.b) = .ok .prepin :=
  ⟨⟨by decide, by decide, by decide, by decide, rfl⟩, by decide, by decide, by decide, by decide, rfl⟩

theorem witness_PlacedWordRunsNext :
    State.reset.buildOk = true ∧ decode 0x080D3C#24 = .ok (.xwr 0x0D#8 0x3C#8) := ⟨by decide, rfl⟩

theorem witness_ReservedWordsCompleteWithZero :
    let s := { p3 zero8 zero8 with cmds := [0x7F1234#24], hpend := true }
    let s' := begun 0xFF0000#24 (p1 zero8 zero8)
    (9 ≤ (opField 0x090000#24).toNat ∧ 9 ≤ (opField 0x7F1234#24).toNat) ∧
    (s.buildOk = true ∧ s.nextEnv.env.reset = false ∧ s.inputs.hndMoves = false ∧ s.active = false) ∧
    s'.buildOk = true ∧ s'.nextEnv.env.reset = false ∧ s'.inputs.hndMoves = false ∧ s'.active = true ∧
      9 ≤ s'.op.toNat := by decide

theorem witness_RemoteCommandsAreReservedOffRemote :
    native.profile.kind ≠ .remote ∧ wide.profile.kind ≠ .remote := by decide

theorem witness_OnlyMeaninglessIdsAreRefused :
    (State.resetOf { Config.fixtureP1 with ports := [0] } (.bytes [])).buildOk = false ∧
    ({ p3 zero8 zero8 with cmds := [0x077700#24] } : State).buildOk = true ∧
    step { p3 zero8 zero8 with cmds := [0x077700#24] } = .refused (.readOfUnspecifiedId 0x77#8) :=
  ⟨by decide, by decide, rfl⟩

theorem witness_MeaninglessIdsAreRefused :
    remote.profile.kind = .remote ∧ 0x77#8 ∉ remote.profile.allIds ∧ remote.profile.regCap = 0x10#8 := by decide

theorem witness_ResetIdlesTheBlock :
    let s := { remote with script := [{ Env.quiet with reset := true }] }
    s.buildOk = true ∧ s.nextEnv.env.reset = true := by decide

theorem witness_ResetMeetsTheInvariant :
    Config.fixtureP2.wf = true ∧
      (Memory.bytes [(0, zero8), (1, zero8), (2, zero8)]).fits Config.fixtureP2 = true := by decide

/-- An idle state meets the invariant. -/
theorem idle_inv : Inv (p1 zero8 zero8) :=
  ⟨by decide, by decide, rfl, by decide, by decide, fun h => (by cases h), by decide, by decide⟩

/-- A state in the middle of a command meets the invariant. -/
theorem remote_inv : Inv remote :=
  ⟨by decide, by decide, rfl, by decide, by decide, fun h => (by cases h), by decide, by decide⟩

/-- MAIN's transaction waits for the device. -/
def stalled : State :=
  { begun 0x070D00#24 (p3 zero8 zero8) with
    sspc := ⟨true, true, .main, 0x0D#8, [0x41#8]⟩, env := stalling, script := [] }

theorem stalled_inv : Inv stalled :=
  ⟨by decide, by decide, rfl, by decide, by decide, fun _ _ => ⟨rfl, .xrd 0x0D#8, rfl, by decide⟩, by decide,
    by decide⟩

theorem witness_StepKeepsTheInvariant : Inv remote ∧ step remote = .next (after (step remote)) :=
  ⟨remote_inv, next_after (by decide)⟩

theorem witness_ForeignChangesSpareMappedBits :
    native.buildOk = true ∧ native.active = true ∧ ¬unmappedBit native.profile 0 7 ∧
      ¬unmappedBit native.profile 1 0 :=
  ⟨by decide, rfl, fun h => h.1 ⟨7, by decide, by decide, by decide⟩,
    fun h => h.2 ⟨0, by decide, by decide, by decide⟩⟩

theorem witness_NotificationSetsThePendingBit :
    let s := { remote with env := { Env.quiet with notify := true }, hpend := true }
    (s.env.notify = true ∧ s.profile.kind = .remote ∧ s.hpend = true) ∧ remote.env.notify = false ∧
      native.profile.kind ≠ .remote := by decide

theorem witness_RotatesWrapModuloEight : 7 < 8 := by decide

theorem witness_ShiftsFillWithZero : 31 < 32 ∧ 8 ≤ 8 := by decide

/-- The hypotheses shared by ScatterPlacesTheComplement, MasksAndDirectionsKeepTheirSense,
GatherReadsTheComplement, AffectedPortsHaveNonzeroMasks and FragmentsRoundTrip, with a bit of port 0 that no data
line is on below. -/
theorem witness_fragments :
    Config.fixtureP2.wf = true ∧ Config.width Config.fixtureP2.kind ≤ 8 ∧
      Config.width Config.fixtureP4.kind ≤ 32 := by decide

theorem witness_no_line_on_bit :
    ¬selected Config.fixtureP2.dmap 0xFF#8 0 2 := by
  rintro ⟨i, -, hp, hb⟩; revert hp hb; revert i; decide

theorem witness_GatherReadsTheComplement (i : Fin 8) :
    let x := fun p : Nat => if p = 0 then 0xF0#8 else 0x3C#8
    let y := fun p : Nat => if p = 0 then 0xFF#8 else 0xFF#8
    (x Config.fixtureP2.dmap[i].port).getLsbD Config.fixtureP2.dmap[i].bit =
      (y Config.fixtureP2.dmap[i].port).getLsbD Config.fixtureP2.dmap[i].bit := by
  revert i; decide

theorem witness_FragmentsRoundTrip :
    ∀ p ∈ aff Config.fixtureP2 Config.fixtureP2.dmap 0xFF#8,
      (if p = 0 then 0x16#8 else 0x17#8) &&& smask Config.fixtureP2.dmap 0xFF#8 p =
        scatter Config.fixtureP2.dmap 0xA7#8 p := by decide

theorem witness_ContiguousWideFragmentsAreShifts :
    6 + 7 < 32 ∧ ∀ i : Fin 8, Config.fixtureP4.dmap[i] = ⟨0, 6 + i.val, true⟩ := by decide

theorem witness_MaskedWriteChangesOnlyMaskedBits :
    native.buildOk = true ∧ native.profile.kind ≠ .wide ∧ 1 ∈ native.profile.ports ∧ wide.buildOk = true ∧
      wide.profile.kind = .wide := by decide

/-- One line for each clause of R30, at bits 0 and 7. -/
theorem witness_LineLevelsFollowTheirDrive :
    let g : Regs 8 := ⟨0x01#8, 0x0F#8, 0x10#8⟩
    let e : Env := { Env.quiet with ext := [⟨0, 1, false⟩, ⟨0, 2, true⟩, ⟨0, 7, false⟩] }
    ((g.dir.getLsbD 0 ^^ false) = true ∧ e.drive 0 0 = .z) ∧
    ((g.dir.getLsbD 1 ^^ false) = true ∧ e.drive 0 1 = .driven (g.out.getLsbD 1)) ∧
    ((g.dir.getLsbD 2 ^^ false) = true ∧ e.drive 0 2 = .driven (!g.out.getLsbD 2)) ∧
    ((g.dir.getLsbD 7 ^^ false) = false ∧ e.drive 0 7 = .driven false) ∧
    ((g.dir.getLsbD 4 ^^ false) = false ∧ e.drive 0 4 = .z ∧ g.pue.getLsbD 4 = true) ∧
    ((g.dir.getLsbD 5 ^^ false) = false ∧ e.drive 0 5 = .z ∧ g.pue.getLsbD 5 = false) := by decide

/-- The hypotheses of PrepinOnNativeCompletes, RddataOnNativeCompletes, DrvdataOnNativeCompletes,
SetcstOnNativeCompletes and SetcdirOnNativeCompletes. -/
theorem witness_native : native.buildOk = true ∧ native.profile.kind = .native := by decide

theorem witness_RddataOnNativeCompletes (i : Fin 8) :
    (p1 ⟨0xBE#8, 0xFF#8, 0#8⟩ zero8).definiteLevel Env.quiet
      Config.fixtureP1.dmap[i].port Config.fixtureP1.dmap[i].bit = some ((0xBE#8).getLsbD i.val) := by
  revert i; decide

theorem remote_linkServes : remote.linkServes := ⟨fun h => (by cases h), rfl⟩

theorem witness_QpinReturnsTheLogicalLevel :
    remote.buildOk = true ∧ remote.useq = 0 ∧ remote.linkServes ∧
      remote.definiteLevel remote.env Config.fixtureP3.cmap[(7 : Fin 8)].port
        Config.fixtureP3.cmap[(7 : Fin 8)].bit = some false :=
  ⟨by decide, rfl, remote_linkServes, by decide⟩

theorem witness_LegalEncodingsThatDoNothing : 8 ≤ (8#8).toNat ∧ 8 ≤ (255#8).toNat := by decide

theorem witness_WideCommandsPerformTheirPrimitives :
    wide.buildOk = true ∧ wide.profile.kind = .wide ∧
      (widePrimitives wide.profile (.setcdir 0xB9#8 0xFF#8))[wide.useq]? = some (.pue, 0x002E4000#32, 0#32) ∧
      (widePrimitives wide.profile (.setcdir 0xB9#8 0xFF#8))[2]? =
        some (.pue, 0x00118000#32, 0x00118000#32) := by decide

theorem witness_RemoteReadHalfLoadsTheLatch :
    remote.buildOk = true ∧ remote.profile.kind = .remote ∧ remote.linkServes ∧
      (remoteUpdates remote.profile (.setcst 0x80#8 0x80#8))[0]? = some (.out, 0, 0x80#8, 0x7F#8) ∧
      (remoteUpdates remote.profile .prepin)[0]? = some (.dir, 1, 0xFF#8, 0xFF#8) ∧ remote.useq = 2 * 0 :=
  ⟨by decide, rfl, remote_linkServes, by decide, by decide, rfl⟩

theorem witness_RemoteWriteHalfStoresTheMerge :
    let s := { remote with useq := 3 }
    s.buildOk = true ∧ s.profile.kind = .remote ∧ s.linkServes ∧
      (remoteUpdates s.profile .prepin)[1]? = some (.pue, 1, 0xFF#8, 0xFF#8) ∧ s.useq = 2 * 1 + 1 :=
  ⟨by decide, rfl, remote_linkServes, by decide, rfl⟩

theorem witness_XrdReturnsTheRemoteRegister :
    remote.buildOk = true ∧ remote.profile.kind = .remote ∧ remote.useq = 0 ∧ remote.linkServes ∧
      0x10#8 ∈ remote.profile.allIds ∧ 0x00#8 ∈ remote.profile.allIds ∧ 0x0D#8 ∈ remote.profile.allIds ∧
      0x12#8 ∈ remote.profile.allIds ∧ remote.definiteLevel remote.env 0 7 = some false :=
  ⟨by decide, rfl, rfl, remote_linkServes, by decide, by decide, by decide, by decide, by decide⟩

theorem witness_XwrReplacesTheWholeRegister :
    remote.buildOk = true ∧ remote.profile.kind = .remote ∧ remote.useq = 0 ∧ remote.linkServes ∧
      (⟨1, 0x01#8, 0x0D#8, 0x13#8⟩ : RemoteIds) ∈ remote.profile.remoteIds :=
  ⟨by decide, rfl, rfl, remote_linkServes, by decide⟩

/-- XWR of `REG_PORT` of a port that is all outputs, then XRD of it; the pull-ups of the other port have changed
in between. -/
theorem witness_RemoteWriteThenReadReturnsTheByte :
    let t := after (exec (.xwr 0x12#8 0x3C#8) remote)
    let u := begun 0x071200#24 { t with mem := t.mem.modify8 1 fun g => g.set .pue 0xFF#8 }
    exec (.xwr 0x12#8 0x3C#8) remote = .next t ∧ u.buildOk = true ∧ u.profile = t.profile ∧
      (∀ b : Nat, b < 8 → u.mem.bit .out 0 b = t.mem.bit .out 0 b) ∧ u.mem ≠ t.mem ∧ u.useq = 0 ∧ u.linkServes ∧
      ∀ b : Nat, b < 8 → u.uncontended u.env 0 b := by
  refine ⟨next_after (by decide), by decide, rfl, by decide, by decide, rfl, ⟨?_, rfl⟩, ?_⟩
  · intro h; exact absurd h (by decide)
  · unfold State.uncontended; decide

theorem witness_TransactionExchangesThreeBytes :
    (remote.sspc.busy = true → remote.sspc.owner = .main) ∧ remote.env.response = .completes ∧
      stalled.sspc.busy = true ∧ stalled.sspc.owner ≠ .hnd := by decide

/-- MAIN's write waits at byte 2. -/
def stalledWrite : State :=
  { begun 0x080D3C#24 (p3 zero8 zero8) with
    sspc := ⟨true, true, .main, 0x3C#8, [0x40#8, 0x0D#8]⟩
    script := [{ Env.quiet with response := .stalls 2 true }] }

theorem stalledWrite_inv : Inv stalledWrite :=
  ⟨by decide, by decide, rfl, by decide, by decide, fun _ _ => ⟨rfl, .xwr 0x0D#8 0x3C#8, rfl, by decide⟩,
    by decide, by decide⟩

/-- MAIN's transaction begins, and the device does not respond. -/
def stallBegins : State := { begun 0x070D00#24 (p3 zero8 zero8) with script := [stalling] }

theorem stallBegins_inv : Inv stallBegins :=
  ⟨by decide, by decide, rfl, by decide, by decide, fun h => (by cases h), by decide, by decide⟩

/-- A read that begins and waits at byte 1, one in progress that waits there, and a write that waits at byte 2 and
has landed. -/
theorem witness_StalledCommandNeverCompletes :
    (Inv stallBegins ∧ stallBegins.profile.kind = .remote ∧ stallBegins.atTransaction ∧
      stallBegins.sspc.busy = false ∧ stallBegins.inputs.hndMoves = false ∧
      stallBegins.nextEnv.env.reset = false ∧ stallBegins.nextEnv.env.response = .stalls 1 false ∧
      step stallBegins = .next (after (step stallBegins))) ∧
    (Inv stalled ∧ stalled.profile.kind = .remote ∧ stalled.atTransaction ∧ stalled.sspc.owner = .main ∧
      stalled.inputs.hndMoves = false ∧ stalled.nextEnv.env.reset = false ∧
      stalled.nextEnv.env.response = .stalls 1 false ∧ step stalled = .next (after (step stalled)) ∧
      (after (step stalled)).sspc.sent.length < 2) ∧
    (Inv stalledWrite ∧ stalledWrite.profile.kind = .remote ∧ stalledWrite.atTransaction ∧
      stalledWrite.sspc.owner = .main ∧ stalledWrite.inputs.hndMoves = false ∧
      stalledWrite.nextEnv.env.reset = false ∧ stalledWrite.nextEnv.env.response = .stalls 2 true ∧
      step stalledWrite = .next (after (step stalledWrite)) ∧
      (after (step stalledWrite)).sspc.sent = [stalledWrite.profile.ctrlWr, 0x0D#8] ∧
      ((after (step stalledWrite)).mem.port8 1).pue = 0x3C#8) ∧
    let s := { begun 0x000000#24 (p3 zero8 zero8) with env := stalling }
    s.buildOk = true ∧ s.profile.kind = .remote ∧ s.useq < (remoteXacts s.profile .prepin).length ∧
      s.sspc.busy = false ∧ s.env.response = .stalls 1 false ∧ exec .prepin s = .next (after (exec .prepin s)) :=
  ⟨⟨stallBegins_inv, rfl, ⟨rfl, .xrd 0x0D#8, rfl, by decide⟩, rfl, by decide, rfl, rfl, next_after (by decide)⟩,
    ⟨stalled_inv, rfl, ⟨rfl, .xrd 0x0D#8, rfl, by decide⟩, rfl, by decide, rfl, rfl, next_after (by decide),
      by decide⟩,
    ⟨stalledWrite_inv, rfl, ⟨rfl, .xwr 0x0D#8 0x3C#8, rfl, by decide⟩, rfl, by decide, rfl, rfl,
      next_after (by decide), by decide, by decide⟩,
    by decide, rfl, by decide, rfl, rfl, next_after (by decide)⟩

/-- With the link free, with HND's read in progress, and with the device not responding. -/
theorem witness_HandlerReadsTheCaptureRegister :
    let s := { remote with hpend := true }
    let s' := { s with sspc := ⟨true, true, .hnd, 0x10#8, [0x41#8]⟩ }
    (s.profile.kind = .remote ∧ s.hpend = true ∧ s.sspc.busy = false ∧ s.env.response = .completes) ∧
    (s'.sspc.busy = true ∧ s'.sspc.owner = .hnd ∧ s'.env.response = .completes) ∧
    ({ s' with env := stalling } : State).env.response = .stalls 1 false := by decide

theorem witness_EitherAgentMayGoFirst :
    let s := { remote with hpend := true }
    s.buildOk = true ∧ s.nextEnv.env.reset = false ∧ s.inputs.hndReady = true ∧
      s.inputs.env.turn = .main ∧
      ({ s with script := [{ Env.quiet with turn := .hnd }] } : State).inputs.env.turn = .hnd := by decide

/-- As many quiet inputs as a command has steps. -/
def quietRun (s : State) (i : Instr) : List Env := List.replicate (commandSteps s.profile i) Env.quiet

/-- What the statements about whole commands assume of the state and the inputs. -/
def runs (s : State) (i : Instr) : Bool :=
  s.ready && allComplete (quietRun s i) && (quietRun s i).length == commandSteps s.profile i

/-- The hypotheses of PrepinNetEffect, DrvdataNetEffect, SetcstNetEffect, SetcdirNetEffect and RddataNetEffect, on
each kind. -/
theorem witness_netEffects :
    ([Instr.prepin, .rddata, .drvdata 0xA7#8, .setcst 0x80#8 0x80#8, .setcdir 0xB9#8 0xFF#8].all fun i =>
      [native, wide, remote].all fun s => runs s i) = true := by
  decide

theorem witness_RemoteSetcstCopiesLineLevels :
    let i := Instr.setcst 0x80#8 0x80#8
    runs remote i = true ∧ remote.profile.kind = .remote ∧
      runCommand i (quietRun remote i) remote = .next (after (runCommand i (quietRun remote i) remote)) ∧
      0 ∈ aff remote.profile remote.profile.cmap 0x80#8 ∧ ¬selected remote.profile.cmap 0x80#8 0 0 ∧
      ∀ e ∈ quietRun remote i, remote.definiteLevel e 0 0 = some false := by
  refine ⟨by decide, rfl, next_after (by decide), by decide, ?_, by decide⟩
  rintro ⟨i, hm, hp, hb⟩; revert hm hp hb; revert i; decide

theorem witness_RddataNetEffect :
    (∀ e ∈ quietRun remote .rddata, ∀ i : Fin 8,
      remote.definiteLevel e remote.profile.dmap[i].port remote.profile.dmap[i].bit = some false) ∧
    (wide.buildOk = true ∧ wide.profile.kind = .wide ∧ wide.useq = 0) ∧
    remote.buildOk = true ∧ remote.profile.kind = .remote ∧ remote.linkServes ∧
      (aff remote.profile remote.profile.dmap 0xFF#8)[remote.useq]? = some 1 :=
  ⟨by decide, by decide, by decide, rfl, remote_linkServes, by decide⟩

/-- DRVDATA completed on P3, and the next command accepted. -/
def driven : State := after (runCommand (.drvdata 0xA7#8) (quietRun remote (.drvdata 0xA7#8)) remote)

theorem witness_DriveThenReadReturnsTheByte :
    let u := begun 0x010000#24 driven
    runs remote (.drvdata 0xA7#8) = true ∧
      runCommand (.drvdata 0xA7#8) (quietRun remote (.drvdata 0xA7#8)) remote = .next driven ∧
      runs u .rddata = true ∧ u.profile = driven.profile ∧ u.mem = driven.mem ∧
      ∀ e ∈ quietRun u .rddata, ∀ i : Fin 8,
        e.drive u.profile.dmap[i].port u.profile.dmap[i].bit = .z :=
  ⟨by decide, next_after (by decide), by decide, rfl, rfl, by decide⟩

theorem witness_DriveThenReleaseLeavesInputs :
    let u := begun 0x000000#24 driven
    runs remote (.drvdata 0xA7#8) = true ∧
      runCommand (.drvdata 0xA7#8) (quietRun remote (.drvdata 0xA7#8)) remote = .next driven ∧
      runs u .prepin = true ∧ u.profile = driven.profile ∧ u.mem = driven.mem :=
  ⟨by decide, next_after (by decide), by decide, rfl, rfl⟩

theorem witness_StepCountsPerKind :
    Config.fixtureP1.wf = true ∧ Config.fixtureP1.kind = .native ∧ Config.fixtureP4.wf = true ∧
      Config.fixtureP4.kind = .wide ∧ Config.fixtureP3.wf = true ∧ Config.fixtureP3.kind = .remote ∧
      (0x80#8 : Byte) ≠ 0#8 := by decide

/-- PREPIN, then SETCST, then SETCDIR, each accepted when the one before has completed. -/
theorem witness_BootSequencePairsEveryLine :
    let t₁ := after (runCommand .prepin (quietRun remote .prepin) remote)
    let s₂ := begun 0x0300FF#24 t₁
    let i₂ := Instr.setcst 0x00#8 0xFF#8
    let t₂ := after (runCommand i₂ (quietRun s₂ i₂) s₂)
    runs remote .prepin = true ∧ runCommand .prepin (quietRun remote .prepin) remote = .next t₁ ∧
      runs s₂ i₂ = true ∧ runCommand i₂ (quietRun s₂ i₂) s₂ = .next t₂ ∧
      runs (begun 0x04B9FF#24 t₂) (.setcdir 0xB9#8 0xFF#8) = true :=
  ⟨by decide, next_after (by decide), by decide, next_after (by decide), by decide⟩

/-- What the statements about the machine's own steps assume, for the command word `w` on P3 with a handler request
pending that is served after MAIN's first transaction. -/
def served (w : CommandWord) : State :=
  { begun w (p3 zero8 zero8) with
    hpend := true, script := [Env.quiet, { Env.quiet with turn := .hnd }, Env.quiet] }

def meets (n : Nat) (s : State) : Bool :=
  s.buildOk && s.active && s.useq == 0 && !s.sspc.busy && s.noReset && isNext (runUntilDone n s) &&
    !(after (runUntilDone n s)).active && !(after (runUntilDone n s)).hpend

theorem witness_PairingHoldsWhenACommandCompletes :
    (meets 5 (served 0x000000#24) = true ∧
      decode (packWord (served 0x000000#24).op (served 0x000000#24).a (served 0x000000#24).b) = .ok .prepin) ∧
    (meets 7 (served 0x02FF00#24) = true ∧
      decode (packWord (served 0x02FF00#24).op (served 0x02FF00#24).a (served 0x02FF00#24).b) =
        .ok (.drvdata 0xFF#8)) ∧
    (meets 5 (served 0x04B981#24) = true ∧
      decode (packWord (served 0x04B981#24).op (served 0x04B981#24).a (served 0x04B981#24).b) =
        .ok (.setcdir 0xB9#8 0x81#8)) :=
  ⟨⟨by decide, rfl⟩, ⟨by decide, rfl⟩, by decide, rfl⟩

theorem witness_HandlerNeverDisturbsSetcdir :
    meets 5 (served 0x04B9FF#24) = true ∧
      decode (packWord (served 0x04B9FF#24).op (served 0x04B9FF#24).a (served 0x04B9FF#24).b) =
        .ok (.setcdir 0xB9#8 0xFF#8) := ⟨by decide, rfl⟩

theorem witness_PseudoInstructionsExpand : Asm.operand Asm.bitSymbols ['#', 'A', 'T', 'N'] = some 0x80#8 := by decide

/-- Data changes between the two bits of this exchange, at a falling edge. -/
theorem witness_WaveformCarriesTheFrame :
    (exchangeWave [(0x41#8, 0x3C#8)])[3]? = some ⟨false, true, true, false⟩ ∧
      (exchangeWave [(0x41#8, 0x3C#8)])[4]? = some ⟨false, false, false, true⟩ := by decide


end Sys2Proof.Tests
end

section
/-! # Registers, lines and identifiers

Facts about the model's shared operations that the statements about the state need: which bits a masked update
changes, which bits carry a line, and what a remote identifier names. -/

namespace Sys2Proof.Machine

/-! ## One bit of the register space -/

/-- A bit of a port that exists or not, after a masked update, when the update does not select it. -/
theorem Memory.bit_modify8_masked_miss (m : Memory) {r r' : Reg} {p q b : Nat} {pm : Byte} (pv : Byte)
    (h : ¬(r' = r ∧ q = p ∧ pm.getLsbD b = true)) :
    (m.modify8 p fun g => g.masked r pm pv).bit r' q b = m.bit r' q b := by
  cases m with
  | wide g => rfl
  | bytes ps =>
    have hlookup := lookup_modify ps p q fun g => g.masked r pm pv
    simp only [Memory.modify8, Memory.bit, hlookup]
    by_cases hq : q = p
    · rw [if_pos hq]
      cases ps.lookup q with
      | none => rfl
      | some g =>
        by_cases hr : r' = r
        · have hpm : ¬pm.getLsbD b = true := fun hb => h ⟨hr, hq, hb⟩
          simp [Regs.get_masked, hr, getLsbD_merge, hpm]
        · simp [Regs.get_masked, hr]
    · rw [if_neg hq]

/-- A bit after a change of an existing 8-bit port. -/
theorem Memory.bit_modify8 {ps : List (Nat × Regs 8)} {p : Nat} (hp : p ∈ ps.map (·.1)) (f : Regs 8 → Regs 8)
    (r : Reg) (q b : Nat) :
    ((Memory.bytes ps).modify8 p f).bit r q b =
      if q = p then ((f ((Memory.bytes ps).port8 p)).get r).getLsbD b else (Memory.bytes ps).bit r q b := by
  split
  · rename_i hq
    subst hq
    rw [← Memory.port8_modify8_same f hp]; rfl
  · rename_i hq
    rw [Memory.bit_bytes, ← Memory.port8_modify8_other _ f hq]; rfl

/-- A masked update of the 32-bit port, seen bit by bit. -/
theorem Memory.bit_modify32_masked (g : Regs 32) (r r' : Reg) (q b : Nat) (pm pv : Word32) :
    ((Memory.wide g).modify32 fun g => g.masked r pm pv).bit r' q b =
      if r' = r ∧ q = 0 ∧ pm.getLsbD b = true then pv.getLsbD b else (Memory.wide g).bit r' q b := by
  simp only [Memory.modify32, Memory.bit, Regs.get_masked]
  by_cases hq : q = 0
  · by_cases hr : r' = r
    · simp [hr, hq, getLsbD_merge]
    · simp [hr]
  · simp [hq, beq_false_of_ne hq]

/-- Merging twice is merging once. -/
theorem merge_merge {w : Nat} (old pm pv : BitVec w) : merge (merge old pm pv) pm pv = merge old pm pv := by
  apply BitVec.eq_of_getLsbD_eq
  intro b _
  simp only [getLsbD_merge]
  split <;> rfl

/-- The registers of a build with 8-bit ports are exactly those of the profile's ports. -/
theorem Memory.fits_narrow {m : Memory} {pf : Profile} (h : m.fits pf = true) (hk : pf.kind ≠ .wide) :
    ∃ ps, m = .bytes ps ∧ ps.map (·.1) = pf.ports := by
  cases m <;> cases hkind : pf.kind <;> simp_all [Memory.fits]

/-- The registers of a WIDE build are those of its one port. -/
theorem Memory.fits_wide {m : Memory} {pf : Profile} (h : m.fits pf = true) (hk : pf.kind = .wide) :
    ∃ g, m = .wide g := by
  cases m <;> simp_all [Memory.fits]

/-- The profile and the registers of a well-formed build. -/
theorem State.buildOk_iff (s : State) : s.buildOk = true ↔ s.profile.wf = true ∧ s.mem.fits s.profile = true := by
  simp [State.buildOk]

/-- Registers that fit a well-formed profile are in canonical form. -/
theorem Memory.wf_of_fits {m : Memory} {pf : Profile} (hpf : pf.wf = true) (h : m.fits pf = true) : m.wf = true := by
  obtain ⟨-, -, -, hasc, -, -⟩ := wf_checks hpf
  by_cases hk : pf.kind = .wide
  · obtain ⟨g, rfl⟩ := Memory.fits_wide h hk
    rfl
  · obtain ⟨ps, rfl, hps⟩ := Memory.fits_narrow h hk
    rw [Memory.wf_iff, Memory.ids, hps]
    exact of_decide_eq_true hasc

/-! ## Lines and masks -/

/-- What a map of a well-formed profile guarantees of its lines, at port width `w`: each bit exists, and no two
lines share one (R23(a), (b)). -/
structure WellPlaced (map : LineMap) (w : Nat) : Prop where
  bit_lt (i : Fin 8) : map[i].bit < w
  injective (i j : Fin 8) : map[j].port = map[i].port → map[j].bit = map[i].bit → j = i

theorem wellPlaced_dmap {pf : Profile} {w : Nat} (h : pf.wf = true) (hw : Config.width pf.kind ≤ w) :
    WellPlaced pf.dmap w where
  bit_lt i := Nat.lt_of_lt_of_le (wf_line h (mem_lines_dmap pf i)).2.1 hw
  injective := wf_dmap_injective h

theorem wellPlaced_cmap {pf : Profile} {w : Nat} (h : pf.wf = true) (hw : Config.width pf.kind ≤ w) :
    WellPlaced pf.cmap w where
  bit_lt i := Nat.lt_of_lt_of_le (wf_line h (mem_lines_cmap pf i)).2.1 hw
  injective := wf_cmap_injective h

namespace WellPlaced

variable {map : LineMap} {w : Nat} (hmap : WellPlaced map w)
include hmap

/-- The bit of a line in a port mask is its bit of the logical mask (R121). -/
theorem getLsbD_smask (m : Byte) (i : Fin 8) :
    (smask map m map[i].port : BitVec w).getLsbD map[i].bit = m.getLsbD i.val :=
  getLsbD_spread_line map i _ (hmap.bit_lt i) (hmap.injective i)

/-- The bit of a line in a direction value is its direction in the port's encoding (R122). -/
theorem getLsbD_sdir (inv : Bool) (d : Byte) (i : Fin 8) :
    (sdir inv map d map[i].port : BitVec w).getLsbD map[i].bit = (d.getLsbD i.val ^^ inv) :=
  getLsbD_spread_line map i _ (hmap.bit_lt i) (hmap.injective i)

/-- The bits set in a port mask are those of the lines the logical mask selects. -/
theorem getLsbD_smask_iff (m : Byte) (p b : Nat) :
    (smask map m p : BitVec w).getLsbD b = true ↔ selected map m p b := by
  constructor
  · intro h
    by_cases hline : ∃ i : Fin 8, map[i].port = p ∧ map[i].bit = b
    · obtain ⟨i, rfl, rfl⟩ := hline
      exact ⟨i, hmap.getLsbD_smask m i ▸ h, rfl, rfl⟩
    · push Not at hline
      rw [smask, getLsbD_spread_other map p b _ hline] at h
      cases h
  · rintro ⟨i, hi, rfl, rfl⟩
    rwa [hmap.getLsbD_smask]

end WellPlaced

/-- A bit that carries a logical line is none of the unmapped bits (R40). -/
theorem getLsbD_unmapped_of_mapped {pf : Profile} {w p b : Nat} (h : pf.wf = true) (hw : Config.width pf.kind ≤ w)
    (hb : ¬unmappedBit pf p b) : (unmapped pf p : BitVec w).getLsbD b = false := by
  have hline : selected pf.dmap 0xFF#8 p b ∨ selected pf.cmap 0xFF#8 p b := by
    unfold unmappedBit at hb; tauto
  rw [← (wellPlaced_dmap h hw).getLsbD_smask_iff, ← (wellPlaced_cmap h hw).getLsbD_smask_iff] at hline
  simp only [unmapped, dataMask, controlMask, BitVec.getLsbD_not, BitVec.getLsbD_or]
  rcases hline with hline | hline <;> simp [hline]

/-! ## Remote register identifiers -/

/-- The association list that `remoteClass` looks identifiers up in. -/
def remoteTable (pf : Profile) : List (Byte × RemoteReg) :=
  (pf.regCap, .capture) :: pf.remoteIds.flatMap RemoteIds.classes

theorem remoteClass_eq_lookup (pf : Profile) (id : Byte) : remoteClass pf id = (remoteTable pf).lookup id := rfl

/-- The identifiers that have a class are those of the profile. -/
theorem remoteTable_keys (pf : Profile) : (remoteTable pf).map (·.1) = pf.allIds := by
  simp only [remoteTable, Profile.allIds, List.map_cons, List.map_flatMap]
  rfl

/-- An identifier that is none of the profile's names nothing (R33). -/
theorem remoteClass_eq_none {pf : Profile} {id : Byte} (h : id ∉ pf.allIds) : remoteClass pf id = none := by
  rw [remoteClass_eq_lookup, List.lookup_eq_none_iff]
  intro e he
  have hkey : e.1 ∈ pf.allIds := remoteTable_keys pf ▸ List.mem_map_of_mem he
  simpa using fun heq : id = e.1 => h (heq ▸ hkey)

/-- `REG_CAP` names the capture register (R33). -/
theorem remoteClass_regCap (pf : Profile) : remoteClass pf pf.regCap = some .capture := by
  rw [remoteClass_eq_lookup, remoteTable, List.lookup_cons_self]

end Sys2Proof.Machine
end

section
/-! # The small statements about the state -/

namespace Sys2Proof.Machine

/-- Settles O9: neither command finds a class it may access. -/
theorem meaninglessIdsAreRefused : Obligations.MeaninglessIdsAreRefused := by
  intro s id v hk
  refine ⟨fun hid => ?_, fun hid => ?_⟩
  · simp only [exec, execXrd, hk, remoteClass_eq_none hid]
  · rcases hid with hid | rfl
    · simp only [exec, execXwr, hk, remoteClass_eq_none hid]
    · simp only [exec, execXwr, hk, remoteClass_regCap]

/-- The machine right after reset meets the invariant whenever profile and registers are those of one build. -/
theorem inv_resetOf {pf : Profile} {init : Memory} (hpf : pf.wf = true) (hfits : init.fits pf = true) :
    Inv (State.resetOf pf init) := by
  refine ⟨(State.buildOk_iff _).mpr ⟨hpf, hfits⟩, Memory.wf_of_fits hpf hfits, ?_⟩
  simp [State.linkOk, State.resetOf, Sspc.idle]

/-- Settles O11. -/
theorem resetMeetsTheInvariant : Obligations.ResetMeetsTheInvariant :=
  ⟨inv_resetOf (by decide) (by decide), fun _ _ hpf hfits => inv_resetOf hpf hfits⟩

/-- Settles O28, one case of R30 at a time. -/
theorem lineLevelsFollowTheirDrive : Obligations.LineLevelsFollowTheirDrive := by
  intro w inv g e n p b hb
  have hlevel : (portLevels inv g e n p).getLsbD b =
      lineLevel (g.dir.getLsbD b ^^ inv) (g.out.getLsbD b) (g.pue.getLsbD b) (e.drive p b)
        (Config.freeLevel n p b) := by
    rw [portLevels, getLsbD_ofBits, decide_eq_true hb, Bool.true_and, isOut]
  rw [hlevel]
  refine ⟨?_, ?_, ?_, ?_, ?_⟩
  · rintro hout (hext | hext) <;> simp [hout, hext, lineLevel]
  · intro hout hext
    simp [hout, hext, lineLevel]
  · intro v hin hext
    simp [hin, hext, lineLevel]
  · intro hin hext hpull
    simp [hin, hext, hpull, lineLevel, Config.pullLevel]
  · intro hin hext hpull
    simp [hin, hext, hpull, lineLevel]

/-! ## Foreign changes -/

/-- One foreign change spares every bit that carries a line. -/
theorem bit_foreignWrite_of_mapped {pf : Profile} {m : Memory} (hpf : pf.wf = true) (hfits : m.fits pf = true)
    (x : ForeignWrite) (r : Reg) {p b : Nat} (hb : ¬unmappedBit pf p b) :
    (m.foreignWrite pf x).bit r p b = m.bit r p b := by
  cases m with
  | bytes ps =>
    have hw : Config.width pf.kind ≤ 8 := by
      cases hk : pf.kind <;> simp_all [Memory.fits, Config.width]
    rw [Memory.foreignWrite]
    refine Memory.bit_modify8_masked_miss _ _ ?_
    rintro ⟨-, rfl, hmask⟩
    simp [getLsbD_unmapped_of_mapped hpf hw hb] at hmask
  | wide g =>
    have hw : Config.width pf.kind ≤ 32 := by
      cases hk : pf.kind <;> simp [Config.width]
    unfold Memory.foreignWrite
    by_cases hx : x.port = 0
    · rw [if_pos hx, Memory.bit_modify32_masked, if_neg]
      rintro ⟨-, rfl, hmask⟩
      simp [getLsbD_unmapped_of_mapped hpf hw hb] at hmask
    · rw [if_neg hx]

/-- Any number of foreign changes spares every bit that carries a line. -/
theorem bit_foldl_foreignWrite_of_mapped {pf : Profile} (hpf : pf.wf = true) (r : Reg) {p b : Nat}
    (hb : ¬unmappedBit pf p b) (xs : List ForeignWrite) :
    ∀ m : Memory, m.fits pf = true → (xs.foldl (Memory.foreignWrite pf) m).bit r p b = m.bit r p b := by
  induction xs with
  | nil => intro m _; rfl
  | cons x xs ih =>
    intro m hfits
    rw [List.foldl_cons, ih _ (by simpa using hfits), bit_foreignWrite_of_mapped hpf hfits x r hb]

/-- During a command the environment changes no register (assumption log 17). -/
theorem State.applyForeign_of_active {s : State} (h : s.active = true) : s.applyForeign = s := if_pos h

/-- Settles O13, by induction on the changes of the step. -/
theorem foreignChangesSpareMappedBits : Obligations.ForeignChangesSpareMappedBits := by
  intro s hs
  obtain ⟨hpf, hfits⟩ := s.buildOk_iff.mp hs
  refine ⟨fun r p b hb => ?_, State.applyForeign_of_active⟩
  unfold State.applyForeign
  split
  · rfl
  · exact bit_foldl_foreignWrite_of_mapped hpf r hb _ _ hfits

/-! ## The step runs the decoded command -/

/-- Packing the three fields of a word gives the word back (R80). -/
theorem packWord_fields (w : CommandWord) : packWord (opField w) (aField w) (bField w) = w := by
  apply BitVec.eq_of_getLsbD_eq
  intro k hk
  simp only [packWord, opField, aField, bField, BitVec.getLsbD_append, BitVec.getLsbD_extractLsb']
  by_cases h8 : k < 8
  · simp [h8]
  · by_cases h16 : k < 16
    · have hk8 : k - 8 < 8 := by omega
      simp [h8, hk8, show 8 + (k - 8) = k by omega]
    · have hk8 : ¬k - 8 < 8 := by omega
      simp [h8, hk8, show k - 8 - 8 < 8 by omega, show 16 + (k - 8 - 8) = k by omega]

@[simp] theorem State.inputs_active (s : State) : s.inputs.active = s.active := by simp [State.inputs]
@[simp] theorem State.inputs_cmds (s : State) : s.inputs.cmds = s.cmds := by simp [State.inputs]
@[simp] theorem State.inputs_op (s : State) : s.inputs.op = s.op := by simp [State.inputs]
@[simp] theorem State.inputs_a (s : State) : s.inputs.a = s.a := by simp [State.inputs]
@[simp] theorem State.inputs_b (s : State) : s.inputs.b = s.b := by simp [State.inputs]

/-- Without reset and without a move of HND the step is MAIN's, on this step's inputs. -/
theorem step_eq_mainStep {s : State} (hs : s.buildOk = true) (hreset : s.nextEnv.env.reset = false)
    (hhnd : s.inputs.hndMoves = false) : step s = mainStep s.inputs := by
  simp [step, hs, hreset, hhnd]

/-- Settles O4. -/
theorem stepRunsTheDecodedCommand : Obligations.StepRunsTheDecodedCommand := by
  refine ⟨fun s i hs hreset hhnd => ⟨fun w rest hidle hcmds hdec => ?_, fun hactive hdec => ?_⟩,
    fun s w rest => ⟨packWord_fields w, rfl⟩⟩
  · rw [step_eq_mainStep hs hreset hhnd, mainStep, if_neg (by simp [hidle]), State.inputs_cmds, hcmds]
    exact execWord_ok _ hdec
  · rw [step_eq_mainStep hs hreset hhnd, mainStep, if_pos (by simp [hactive])]
    exact execWord_ok _ (by simpa using hdec)

end Sys2Proof.Machine
end

section
/-! # What MAIN's step keeps and how it uses the link

`MainKeeps` is the frame of every command on every kind of build. `runRemote_cases` and `exec_cases` say once what
one step of a command can be; the invariant and the statements about runs are derived from them. -/

namespace Sys2Proof.Machine

/-! ## The frame of MAIN -/

/-- What no step of a command changes: the build, the latched word, the handler's state, the queue and the
environment's inputs; and the ports that the register space holds. -/
structure MainKeeps (s t : State) : Prop where
  profile : t.profile = s.profile
  op : t.op = s.op
  a : t.a = s.a
  b : t.b = s.b
  hpend : t.hpend = s.hpend
  hdata : t.hdata = s.hdata
  cmds : t.cmds = s.cmds
  env : t.env = s.env
  script : t.script = s.script
  memWf : t.mem.wf = s.mem.wf
  memFits : ∀ pf, t.mem.fits pf = s.mem.fits pf

namespace MainKeeps

theorem refl (s : State) : MainKeeps s s := by constructor <;> intros <;> rfl

theorem trans {s t u : State} (h : MainKeeps s t) (h' : MainKeeps t u) : MainKeeps s u where
  profile := h'.profile.trans h.profile
  op := h'.op.trans h.op
  a := h'.a.trans h.a
  b := h'.b.trans h.b
  hpend := h'.hpend.trans h.hpend
  hdata := h'.hdata.trans h.hdata
  cmds := h'.cmds.trans h.cmds
  env := h'.env.trans h.env
  script := h'.script.trans h.script
  memWf := h'.memWf.trans h.memWf
  memFits pf := (h'.memFits pf).trans (h.memFits pf)

theorem complete (s : State) (r : Byte) : MainKeeps s (s.complete r) := by constructor <;> simp

theorem advance (s : State) (len : Nat) (r : Byte) : MainKeeps s (s.advance len r) := by constructor <;> simp

theorem keepSample (s : State) (p : Nat) (v : Word32) : MainKeeps s (s.keepSample p v) := by constructor <;> simp

theorem keep (x : Xact) (rx : Byte) (s : State) : MainKeeps s (x.keep rx s) := by
  cases x <;> constructor <;> intros <;> rfl

theorem nativeAccess (s : State) (a : Access 8) : MainKeeps s (nativeAccess s a) := by
  cases a with
  | mw r p pm pv => constructor <;> simp [Machine.nativeAccess]
  | rd p => exact keepSample ..

theorem wideMasked (r : Reg) (m v : Word32) (s : State) : MainKeeps s (wideMasked r m v s) := by
  constructor <;> simp

theorem wideAccess (s : State) (a : Access 32) : MainKeeps s (wideAccess s a) := by
  cases a with
  | mw r p pm pv => cases r <;> exact wideMasked ..
  | rd p => exact keepSample ..

theorem runNative (as : List (Access 8)) (res : Result) (s : State) : MainKeeps s (runNative as res s) := by
  have hfold : ∀ (as : List (Access 8)) (s : State), MainKeeps s (as.foldl Machine.nativeAccess s) := by
    intro as
    induction as with
    | nil => exact refl
    | cons a as ih => exact fun s => (nativeAccess s a).trans (ih _)
  exact (hfold as s).trans (complete ..)

theorem runWide (as : List (Access 32)) (res : Result) (s : State) : MainKeeps s (runWide as res s) := by
  unfold Machine.runWide
  split
  · exact complete ..
  · exact (wideAccess s _).trans (advance ..)

end MainKeeps

/-! ## Fields after a micro-operation -/

@[simp] theorem State.advance_active (s : State) (len : Nat) (r : Byte) :
    (s.advance len r).active = (s.active && decide (s.useq + 1 < len)) := by
  unfold State.advance
  split <;> simp_all

/-- A command in progress that completes as `USEQ` advances was at its last micro-operation. -/
theorem State.le_of_advance_done {s : State} {len : Nat} {r : Byte} (hact : s.active = true)
    (h : (s.advance len r).active = false) : len ≤ s.useq + 1 := by
  simpa [hact] using h

@[simp] theorem wideAccess_sspc (s : State) (a : Access 32) : (wideAccess s a).sspc = s.sspc := by
  cases a with
  | mw r p pm pv => cases r <;> rfl
  | rd p => rfl

@[simp] theorem wideAccess_useq (s : State) (a : Access 32) : (wideAccess s a).useq = s.useq := by
  cases a with
  | mw r p pm pv => cases r <;> rfl
  | rd p => rfl

@[simp] theorem wideAccess_active (s : State) (a : Access 32) : (wideAccess s a).active = s.active := by
  cases a with
  | mw r p pm pv => cases r <;> rfl
  | rd p => rfl

/-! ## One transaction -/

@[simp] theorem Request.effect_profile (q : Request) (s : State) : (q.effect s).profile = s.profile := by
  rw [q.effect_eq]
@[simp] theorem Request.effect_op (q : Request) (s : State) : (q.effect s).op = s.op := by rw [q.effect_eq]
@[simp] theorem Request.effect_a (q : Request) (s : State) : (q.effect s).a = s.a := by rw [q.effect_eq]
@[simp] theorem Request.effect_b (q : Request) (s : State) : (q.effect s).b = s.b := by rw [q.effect_eq]
@[simp] theorem Request.effect_active (q : Request) (s : State) : (q.effect s).active = s.active := by
  rw [q.effect_eq]
@[simp] theorem Request.effect_useq (q : Request) (s : State) : (q.effect s).useq = s.useq := by rw [q.effect_eq]
@[simp] theorem Request.effect_t (q : Request) (s : State) : (q.effect s).t = s.t := by rw [q.effect_eq]
@[simp] theorem Request.effect_hpend (q : Request) (s : State) : (q.effect s).hpend = s.hpend := by
  rw [q.effect_eq]

theorem MainKeeps.effect (q : Request) (s : State) : MainKeeps s (q.effect s) where
  profile := q.effect_profile s
  op := q.effect_op s
  a := q.effect_a s
  b := q.effect_b s
  hpend := q.effect_hpend s
  hdata := by rw [q.effect_eq]
  cmds := by rw [q.effect_eq]
  env := by rw [q.effect_eq]
  script := by rw [q.effect_eq]
  memWf := by cases h : q.rw <;> simp [Request.effect, h]
  memFits pf := by cases h : q.rw <;> simp [Request.effect, h]

/-- The state after the completed transaction `q` of MAIN (R152). -/
def Request.served (q : Request) (s : State) : State :=
  { q.effect s with
    sspc := Sspc.finished .main (q.frame s.profile) (q.received s), drawCount := s.drawCount + 1 }

/-- The state in which MAIN waits in its transaction `q`; a write that waits at byte 2 may have landed (D30). -/
def Request.stalled (q : Request) (slot : Fin 3) (landed : Bool) (s : State) : State :=
  { (if landed = true ∧ stallSlot s.sspc slot.val = 2 then q.effect s else s) with
    sspc := Sspc.waitingAt .main (q.frame s.profile) (stallSlot s.sspc slot.val) }

theorem MainKeeps.served (q : Request) (s : State) : MainKeeps s (q.served s) :=
  (MainKeeps.effect q s).trans (by constructor <;> intros <;> rfl)

theorem MainKeeps.stalled (q : Request) (slot : Fin 3) (landed : Bool) (s : State) :
    MainKeeps s (q.stalled slot landed s) := by
  unfold Request.stalled
  split
  · exact (MainKeeps.effect q s).trans (by constructor <;> intros <;> rfl)
  · constructor <;> intros <;> rfl

@[simp] theorem Request.served_profile (q : Request) (s : State) : (q.served s).profile = s.profile :=
  q.effect_profile s
@[simp] theorem Request.served_mem (q : Request) (s : State) : (q.served s).mem = (q.effect s).mem := rfl
@[simp] theorem Request.served_active (q : Request) (s : State) : (q.served s).active = s.active :=
  q.effect_active s
@[simp] theorem Request.served_useq (q : Request) (s : State) : (q.served s).useq = s.useq := q.effect_useq s
@[simp] theorem Request.stalled_profile (q : Request) (slot : Fin 3) (landed : Bool) (s : State) :
    (q.stalled slot landed s).profile = s.profile := (MainKeeps.stalled q slot landed s).profile
@[simp] theorem Request.stalled_active (q : Request) (slot : Fin 3) (landed : Bool) (s : State) :
    (q.stalled slot landed s).active = s.active := by
  unfold Request.stalled; split <;> simp
@[simp] theorem Request.stalled_useq (q : Request) (slot : Fin 3) (landed : Bool) (s : State) :
    (q.stalled slot landed s).useq = s.useq := by
  unfold Request.stalled; split <;> simp
@[simp] theorem Request.stalled_t (q : Request) (slot : Fin 3) (landed : Bool) (s : State) :
    (q.stalled slot landed s).t = s.t := by
  unfold Request.stalled; split <;> simp

/-- The registers in a wait are as before, or as the transaction leaves them. -/
theorem Request.stalled_mem (q : Request) (slot : Fin 3) (landed : Bool) (s : State) :
    (q.stalled slot landed s).mem = s.mem ∨ (q.stalled slot landed s).mem = (q.effect s).mem := by
  unfold Request.stalled; split
  · exact .inr rfl
  · exact .inl rfl

/-- What one step at transaction `x`, of a command with `len` of them, can be: nothing because HND holds the link,
the whole transaction, or a wait in it. -/
def Xact.Moves (x : Xact) (len : Nat) (s t : State) : Prop :=
  t = s ∨ (∃ r, t = (x.keep ((x.request s).received s) ((x.request s).served s)).advance len r) ∨
    ∃ slot landed, t = (x.request s).stalled slot landed s

/-- Everything one step of a REMOTE command can be: completion when no transaction is left, else a step at its
`USEQ`-th one. -/
theorem runRemote_cases (xs : List Xact) (res : Result) (s : State) :
    (xs[s.useq]? = none ∧ ∃ r, runRemote xs res s = s.complete r) ∨
    ∃ x, xs[s.useq]? = some x ∧ x.Moves xs.length s (runRemote xs res s) := by
  unfold runRemote
  cases hx : xs[s.useq]? with
  | none => exact .inl ⟨rfl, _, rfl⟩
  | some x =>
    refine .inr ⟨x, rfl, ?_⟩
    rcases transact_cases .main (x.request s) s with ⟨-, -, h⟩ | ⟨-, -, h⟩ | ⟨slot, landed, -, -, h⟩
    · exact .inl (by simp only [h])
    · exact .inr (.inl ⟨_, by simp only [h]; rfl⟩)
    · exact .inr (.inr ⟨slot, landed, by simp only [h]; rfl⟩)

theorem MainKeeps.runRemote (xs : List Xact) (res : Result) (s : State) : MainKeeps s (runRemote xs res s) := by
  rcases runRemote_cases xs res s with ⟨-, r, h⟩ | ⟨x, -, h | ⟨r, h⟩ | ⟨slot, landed, h⟩⟩ <;> rw [h]
  · exact complete ..
  · exact refl s
  · exact ((served ..).trans (keep ..)).trans (advance ..)
  · exact stalled ..

/-! ## One step of a command -/

section
variable {s : State}

theorem Plan.run_native (c : Plan) (hk : s.profile.kind = .native) : c.run s = runNative c.narrow c.result s := by
  simp only [Plan.run, hk]

theorem Plan.run_wide (c : Plan) (hk : s.profile.kind = .wide) : c.run s = runWide c.wide c.result s := by
  simp only [Plan.run, hk]

theorem Plan.run_remote (c : Plan) (hk : s.profile.kind = .remote) :
    c.run s = runRemote (c.narrow.flatMap (Access.xacts s.profile)) c.result s := by
  simp only [Plan.run, hk]

end

theorem MainKeeps.plan (c : Plan) (s : State) : MainKeeps s (c.run s) := by
  unfold Plan.run
  split
  · exact runNative ..
  · exact runWide ..
  · exact runRemote ..

/-- Everything one step of a command with a next state can be: a step of a plan, completion at once, or, for XRD
and XWR on REMOTE, a step of a list of transactions. -/
theorem exec_cases {i : Instr} {s t : State} (h : exec i s = .next t) :
    (∃ c : Plan, t = c.run s ∧ remoteXacts s.profile i = c.narrow.flatMap (Access.xacts s.profile)) ∨
    (∃ r, t = s.complete r ∧ (s.profile.kind = .remote → remoteXacts s.profile i = [])) ∨
    (s.profile.kind = .remote ∧ ∃ res, t = runRemote (remoteXacts s.profile i) res s) := by
  cases i with
  | prepin => injection h with h; exact .inl ⟨_, h.symm, rfl⟩
  | rddata => injection h with h; exact .inl ⟨_, h.symm, rfl⟩
  | drvdata v => injection h with h; exact .inl ⟨_, h.symm, rfl⟩
  | setcst bits mask => injection h with h; exact .inl ⟨_, h.symm, rfl⟩
  | setcdir bits mask => injection h with h; exact .inl ⟨_, h.symm, rfl⟩
  | qpin index => injection h with h; exact .inl ⟨_, h.symm, rfl⟩
  | rev8 x => injection h with h; exact .inr (.inl ⟨_, h.symm, fun _ => rfl⟩)
  | xrd id =>
    simp only [exec, execXrd] at h
    split at h
    · rename_i hk
      split at h
      · injection h with h; exact .inr (.inr ⟨hk, _, h.symm⟩)
      · cases h
    · rename_i hk
      injection h with h; exact .inr (.inl ⟨_, h.symm, fun hr => absurd hr hk⟩)
  | xwr id v =>
    simp only [exec, execXwr] at h
    split at h
    · rename_i hk
      split at h
      · cases h
      · injection h with h; exact .inr (.inr ⟨hk, _, h.symm⟩)
      · cases h
    · rename_i hk
      injection h with h; exact .inr (.inl ⟨_, h.symm, fun hr => absurd hr hk⟩)

/-- No command changes what MAIN keeps. -/
theorem MainKeeps.exec {i : Instr} {s t : State} (h : exec i s = .next t) : MainKeeps s t := by
  rcases exec_cases h with ⟨c, rfl, -⟩ | ⟨r, rfl, -⟩ | ⟨-, res, rfl⟩
  · exact plan ..
  · exact complete ..
  · exact runRemote ..

/-- Nor does a reserved word. -/
theorem MainKeeps.execWord {w : CommandWord} {s t : State} (h : execWord w s = .next t) : MainKeeps s t := by
  cases hdec : decode w with
  | ok i => rw [execWord_ok s hdec] at h; exact MainKeeps.exec h
  | error e =>
    rw [execWord_reserved s hdec] at h
    injection h with h
    exact h ▸ complete ..

/-- On REMOTE a command steps through its transactions; one that has none completes at once. -/
theorem exec_remote_cases {i : Instr} {s t : State} (hk : s.profile.kind = .remote) (h : exec i s = .next t) :
    (∃ res, t = runRemote (remoteXacts s.profile i) res s) ∨
    (remoteXacts s.profile i = [] ∧ ∃ r, t = s.complete r) := by
  rcases exec_cases h with ⟨c, rfl, hx⟩ | ⟨r, rfl, hx⟩ | ⟨-, res, rfl⟩
  · exact .inl ⟨c.result, by rw [hx, c.run_remote hk]⟩
  · exact .inr ⟨hx hk, r, rfl⟩
  · exact .inl ⟨res, rfl⟩

/-! ## Off REMOTE the link is not used -/

@[simp] theorem nativeAccess_sspc (s : State) (a : Access 8) : (nativeAccess s a).sspc = s.sspc := by
  cases a <;> rfl

@[simp] theorem foldl_nativeAccess_sspc (as : List (Access 8)) (s : State) :
    (as.foldl nativeAccess s).sspc = s.sspc := by
  induction as generalizing s with
  | nil => rfl
  | cons a as ih => rw [List.foldl_cons, ih, nativeAccess_sspc]

/-- Off REMOTE no command touches the serial controller, and on NATIVE it completes. -/
theorem exec_not_remote {i : Instr} {s t : State} (hk : s.profile.kind ≠ .remote) (h : exec i s = .next t) :
    t.sspc = s.sspc ∧ (s.profile.kind = .native → t.active = false) := by
  rcases exec_cases h with ⟨c, rfl, -⟩ | ⟨r, rfl, -⟩ | ⟨hr, -⟩
  · cases hkind : s.profile.kind with
    | native =>
      rw [c.run_native hkind]
      exact ⟨by simp [runNative], fun _ => rfl⟩
    | wide =>
      rw [c.run_wide hkind, runWide]
      refine ⟨?_, nofun⟩
      split <;> simp
    | remote => exact absurd hkind hk
  · exact ⟨rfl, fun _ => rfl⟩
  · exact absurd hr hk

end Sys2Proof.Machine
end

section
/-! # The invariant -/

namespace Sys2Proof.Machine

/-! ## The link between steps -/

/-- `linkOk` without its last clause: what also holds of a state in which a word has just been accepted. -/
structure LinkCore (s : State) : Prop where
  sel_eq : s.sspc.sel = s.sspc.busy
  remote_of_busy : s.sspc.busy = true → s.profile.kind = .remote
  sent_lt : s.sspc.busy = true → s.sspc.sent.length < 3
  remote_of_hpend : s.hpend = true → s.profile.kind = .remote
  main_atTransaction : s.sspc.busy = true → s.sspc.owner = .main → s.atTransaction
  hnd_requested : s.sspc.busy = true → s.sspc.owner = .hnd → s.hpend = true

theorem State.linkOk_iff (s : State) : s.linkOk ↔ LinkCore s ∧ (s.active = true → s.profile.kind ≠ .native) := by
  constructor
  · rintro ⟨hsel, hbusy, hpend, hmain, hhnd, hnative⟩
    exact ⟨⟨hsel, fun h => (hbusy h).1, fun h => (hbusy h).2, hpend, hmain, hhnd⟩, hnative⟩
  · rintro ⟨⟨hsel, hremote, hsent, hpend, hmain, hhnd⟩, hnative⟩
    exact ⟨hsel, fun h => ⟨hremote h, hsent h⟩, hpend, hmain, hhnd, hnative⟩

/-- With the link free only the handler's request is left to justify. -/
theorem LinkCore.of_free {t : State} (hsel : t.sspc.sel = false) (hbusy : t.sspc.busy = false)
    (hpend : t.hpend = true → t.profile.kind = .remote) : LinkCore t := by
  constructor <;> simp_all

/-- An agent may wait with the link held before the third byte of its frame is sent, MAIN at a transaction of its
command and HND on a request. -/
theorem LinkCore.of_waiting {t : State} {who : Agent} {frame : List Byte} {k : Nat}
    (hlink : t.sspc = Sspc.waitingAt who frame k) (hk : k < 3) (hremote : t.profile.kind = .remote)
    (hmain : who = .main → t.atTransaction) (hhnd : who = .hnd → t.hpend = true) : LinkCore t where
  sel_eq := by rw [hlink]; rfl
  remote_of_busy _ := hremote
  sent_lt _ := by rw [hlink]; simp only [Sspc.waitingAt, List.length_take]; omega
  remote_of_hpend _ := hremote
  main_atTransaction _ ho := hmain (by simpa [hlink, Sspc.waitingAt] using ho)
  hnd_requested _ ho := hhnd (by simpa [hlink, Sspc.waitingAt] using ho)

/-- The byte at which a transaction waits is one of its three. -/
theorem LinkCore.stallSlot_lt {s : State} (h : LinkCore s) (slot : Fin 3) : stallSlot s.sspc slot.val < 3 := by
  have hslot := slot.isLt
  unfold stallSlot
  split
  · have := h.sent_lt ‹_›
    omega
  · exact hslot

/-- A command that is at no transaction may complete. -/
theorem LinkCore.complete {s : State} (h : LinkCore s) (hno : ¬s.atTransaction) (r : Byte) :
    (s.complete r).linkOk :=
  (State.linkOk_iff _).mpr
    ⟨⟨h.sel_eq, h.remote_of_busy, h.sent_lt, h.remote_of_hpend,
      fun hb ho => absurd (h.main_atTransaction hb ho) hno, h.hnd_requested⟩, fun hact => by cases hact⟩

/-! ## MAIN keeps the link as it should be -/

/-- A step of a command in progress, on REMOTE. -/
theorem LinkCore.runRemote {s : State} {i : Instr} (h : LinkCore s) (hact : s.active = true)
    (hk : s.profile.kind = .remote) (hdec : decode (packWord s.op s.a s.b) = .ok i) (res : Result) :
    (runRemote (remoteXacts s.profile i) res s).linkOk := by
  have hkeep := MainKeeps.runRemote (remoteXacts s.profile i) res s
  have hremote := hkeep.profile ▸ hk
  refine (State.linkOk_iff _).mpr ⟨?_, fun _ hn => by rw [hremote] at hn; cases hn⟩
  rcases runRemote_cases (remoteXacts s.profile i) res s with
    ⟨hnone, r, hrun⟩ | ⟨x, hx, hrun | ⟨r, hrun⟩ | ⟨slot, landed, hrun⟩⟩
  · have hno : ¬s.atTransaction := by
      rintro ⟨-, j, hj, hlt⟩
      cases hdec.symm.trans hj
      exact absurd (List.getElem?_eq_none_iff.mp hnone) (by omega)
    exact hrun ▸ ((State.linkOk_iff _).mp (h.complete hno r)).1
  · rw [hrun]; exact h
  · have hlink : (Machine.runRemote (remoteXacts s.profile i) res s).sspc = ((x.request s).served s).sspc := by
      rw [hrun, State.advance_sspc]
      cases x <;> rfl
    exact .of_free (by rw [hlink]; rfl) (by rw [hlink]; rfl) fun _ => hremote
  · refine .of_waiting (who := .main) (by rw [hrun]; rfl) (h.stallSlot_lt slot) hremote (fun _ => ?_) nofun
    refine ⟨by simpa [hrun] using hact, i, by rw [hkeep.op, hkeep.a, hkeep.b, hdec], ?_⟩
    obtain ⟨hlt, -⟩ := List.getElem?_eq_some_iff.mp hx
    rw [hkeep.profile, hrun, Request.stalled_useq]
    exact hlt

/-- A step of the command in progress leaves the link as it should be between steps. -/
theorem LinkCore.exec {s t : State} {i : Instr} (h : LinkCore s) (hact : s.active = true)
    (hdec : decode (packWord s.op s.a s.b) = .ok i) (hexec : exec i s = .next t) : t.linkOk := by
  have hkeep := MainKeeps.exec hexec
  by_cases hk : s.profile.kind = .remote
  · rcases exec_remote_cases hk hexec with ⟨res, rfl⟩ | ⟨hnil, r, rfl⟩
    · exact h.runRemote hact hk hdec res
    · refine h.complete ?_ r
      rintro ⟨-, j, hj, hlt⟩
      cases hdec.symm.trans hj
      simp [hnil] at hlt
  · obtain ⟨hlink, hnative⟩ := exec_not_remote hk hexec
    have hbusy : s.sspc.busy = false := Bool.not_eq_true _ ▸ fun hb => hk (h.remote_of_busy hb)
    refine (State.linkOk_iff _).mpr ⟨.of_free ?_ ?_ ?_, fun ht hn => ?_⟩
    · rw [hlink, h.sel_eq, hbusy]
    · rw [hlink, hbusy]
    · rw [hkeep.hpend, hkeep.profile]; exact h.remote_of_hpend
    · rw [hkeep.profile] at hn
      rw [hnative hn] at ht
      cases ht

/-- So does a step of the latched word, reserved or not. -/
theorem LinkCore.execWord {s t : State} (h : LinkCore s) (hact : s.active = true)
    (hexec : execWord (packWord s.op s.a s.b) s = .next t) : t.linkOk := by
  cases hdec : decode (packWord s.op s.a s.b) with
  | ok i => exact h.exec hact hdec (by rwa [execWord_ok s hdec] at hexec)
  | error e =>
    rw [execWord_reserved s hdec] at hexec
    injection hexec with hexec
    refine hexec ▸ h.complete ?_ _
    rintro ⟨-, j, hj, -⟩
    cases hdec.symm.trans hj

/-- Accepting a word leaves the link alone: between commands MAIN has no transaction. -/
theorem LinkCore.accept {s : State} (h : LinkCore s) (hidle : s.active = false) (w : CommandWord)
    (rest : List CommandWord) : LinkCore (s.accept w rest) where
  sel_eq := h.sel_eq
  remote_of_busy := h.remote_of_busy
  sent_lt := h.sent_lt
  remote_of_hpend := h.remote_of_hpend
  main_atTransaction hb ho := by
    obtain ⟨hact, -⟩ := h.main_atTransaction hb ho
    rw [hidle] at hact
    cases hact
  hnd_requested := h.hnd_requested

/-! ## Every move keeps the invariant -/

theorem State.accept_word (s : State) (w : CommandWord) (rest : List CommandWord) :
    packWord (s.accept w rest).op (s.accept w rest).a (s.accept w rest).b = w := packWord_fields w

/-- MAIN's step from a state that meets the invariant. -/
theorem mainStep_keeps {s t : State} (h : Inv s) (hstep : mainStep s = .next t) : Inv t ∧ t.profile = s.profile := by
  obtain ⟨hbuild, hwf, hlink⟩ := h
  obtain ⟨hcore, -⟩ := s.linkOk_iff.mp hlink
  have hinv : ∀ {u : State}, u.profile = s.profile → u.mem = s.mem → MainKeeps u t → t.linkOk →
      Inv t ∧ t.profile = s.profile := by
    intro u hprofile hmem hkeep hlink
    refine ⟨⟨?_, by rw [hkeep.memWf, hmem, hwf], hlink⟩, hkeep.profile.trans hprofile⟩
    rw [State.buildOk, hkeep.memFits, hkeep.profile, hprofile, hmem]
    exact hbuild
  rcases mainStep_cases s with ⟨hact, h⟩ | ⟨-, -, h⟩ | ⟨w, rest, hidle, -, h⟩ <;> rw [h] at hstep
  · exact hinv rfl rfl (MainKeeps.execWord hstep) (hcore.execWord hact hstep)
  · injection hstep with hstep
    exact hstep ▸ ⟨⟨hbuild, hwf, hlink⟩, rfl⟩
  · refine hinv (u := s.accept w rest) rfl rfl (MainKeeps.execWord hstep) ?_
    exact (hcore.accept hidle w rest).execWord rfl (by rwa [State.accept_word])

/-- HND's step, when it has one to take, from a state that meets the invariant. -/
theorem hndStep_keeps {s : State} (h : Inv s) (hmoves : s.hndMoves = true) :
    Inv (hndStep s) ∧ (hndStep s).profile = s.profile := by
  obtain ⟨hbuild, hwf, hlink⟩ := h
  obtain ⟨hcore, hnative⟩ := s.linkOk_iff.mp hlink
  have hready : s.hndReady = true := by
    simp only [State.hndMoves, Bool.and_eq_true] at hmoves
    exact hmoves.1
  simp only [State.hndReady, Bool.and_eq_true, beq_iff_eq] at hready
  obtain ⟨hremote, hrequest⟩ := hready
  have hpend : s.hpend = true := by
    cases hb : s.sspc.busy with
    | false => simpa [hb] using hrequest
    | true => exact hcore.hnd_requested hb (by simpa [hb] using hrequest)
  rcases hndStep_cases s with ⟨-, -, h⟩ | ⟨-, h⟩ | ⟨slot, landed, -, h⟩ <;> rw [h]
  · exact ⟨⟨hbuild, hwf, hlink⟩, rfl⟩
  · exact ⟨⟨hbuild, hwf, (State.linkOk_iff _).mpr ⟨.of_free rfl rfl nofun, hnative⟩⟩, rfl⟩
  · refine ⟨⟨hbuild, hwf, (State.linkOk_iff _).mpr ⟨?_, hnative⟩⟩, rfl⟩
    exact .of_waiting (who := .hnd) rfl (hcore.stallSlot_lt slot) hremote nofun fun _ => hpend

/-! ## The environment's inputs -/

@[simp] theorem State.inputs_profile (s : State) : s.inputs.profile = s.profile := by simp [State.inputs]
@[simp] theorem State.inputs_useq (s : State) : s.inputs.useq = s.useq := by simp [State.inputs]
@[simp] theorem State.inputs_t (s : State) : s.inputs.t = s.t := by simp [State.inputs]
@[simp] theorem State.inputs_sspc (s : State) : s.inputs.sspc = s.sspc := by simp [State.inputs]

/-- The inputs of a step may raise a request, on REMOTE only, and withdraw none. -/
theorem State.inputs_hpend (s : State) :
    s.inputs.hpend = true ↔ s.hpend = true ∨ s.nextEnv.env.notify = true ∧ s.profile.kind = .remote := by
  rw [State.inputs, State.applyForeign_hpend, State.applyNotify]
  split <;> simp_all

/-- Foreign changes keep the ports and the canonical form of the register space. -/
theorem foldl_foreignWrite_shape (pf : Profile) (xs : List ForeignWrite) (m : Memory) :
    (xs.foldl (Memory.foreignWrite pf) m).wf = m.wf ∧ (xs.foldl (Memory.foreignWrite pf) m).fits pf = m.fits pf := by
  induction xs generalizing m with
  | nil => exact ⟨rfl, rfl⟩
  | cons x xs ih =>
    obtain ⟨hwf, hfits⟩ := ih (m.foreignWrite pf x)
    exact ⟨by rw [List.foldl_cons, hwf, Memory.wf_foreignWrite],
      by rw [List.foldl_cons, hfits, Memory.fits_foreignWrite]⟩

/-- The register space keeps its shape under a step's inputs. -/
theorem State.inputs_mem_shape (s : State) :
    s.inputs.mem.wf = s.mem.wf ∧ s.inputs.mem.fits s.profile = s.mem.fits s.profile := by
  unfold State.inputs State.applyForeign
  split
  · simp
  · simpa using foldl_foreignWrite_shape s.profile _ s.mem

/-- Taking a step's inputs keeps the invariant. -/
theorem inv_inputs {s : State} (h : Inv s) : Inv s.inputs := by
  obtain ⟨hbuild, hwf, hlink⟩ := h
  obtain ⟨hcore, hnative⟩ := s.linkOk_iff.mp hlink
  obtain ⟨hwf', hfits'⟩ := s.inputs_mem_shape
  refine ⟨?_, hwf'.trans hwf, (State.linkOk_iff _).mpr ⟨?_, by simpa using hnative⟩⟩
  · rw [State.buildOk, State.inputs_profile, hfits']
    exact hbuild
  · constructor <;> simp only [State.inputs_sspc, State.inputs_profile, State.inputs_hpend]
    · exact hcore.sel_eq
    · exact hcore.remote_of_busy
    · exact hcore.sent_lt
    · rintro (hpend | ⟨-, hk⟩)
      · exact hcore.remote_of_hpend hpend
      · exact hk
    · simpa [State.atTransaction] using hcore.main_atTransaction
    · exact fun hb ho => .inl (hcore.hnd_requested hb ho)

/-- Reset leaves the link free and nothing pending or in progress (R250). -/
theorem inv_applyReset {s : State} (hbuild : s.buildOk = true) (hwf : s.mem.wf = true) : Inv s.applyReset :=
  ⟨hbuild, hwf, (State.linkOk_iff _).mpr ⟨.of_free rfl rfl nofun, nofun⟩⟩

/-- Settles O12: reset, HND's step and MAIN's step each keep the invariant, and so do the inputs taken before the
latter two. -/
theorem stepKeepsTheInvariant : Obligations.StepKeepsTheInvariant := by
  intro s t h hstep
  obtain ⟨hbuild, ⟨-, rfl⟩ | ⟨-, hmoves, rfl⟩ | ⟨-, -, hmain⟩⟩ := step_cases hstep
  · obtain ⟨-, hwf, -⟩ := h
    exact ⟨inv_applyReset (by simpa [State.buildOk] using hbuild) (by simpa using hwf), by simp⟩
  · simpa using hndStep_keeps (inv_inputs h) hmoves
  · simpa using mainStep_keeps (inv_inputs h) hmain

end Sys2Proof.Machine
end

section
/-! # Commands that set directions

PREPIN, DRVDATA and SETCDIR all give the lines a mask selects a direction each and the matching pull-up (R32). On
every kind of build such a command is a list of masked writes, each of which puts some of the selected lines' bits
at the value they are to have; so how far the command has come is what the writes done so far say, in any order and
however often one of them takes effect. `Progress` is that measure, and it is all that a run has to keep. -/

namespace Sys2Proof.Machine

/-- What such a command is to do: the lines, their directions (1 = output), and the port's encoding of a direction
(R28). -/
structure Directing where
  map : LineMap
  mask : Byte
  dirs : Byte
  inv : Bool

namespace Directing

/-- The bit a selected line gets in a register; the latch is left to other claims. -/
def value (g : Directing) (i : Fin 8) : Reg → Bool
  | .dir => g.dirs.getLsbD i.val ^^ g.inv
  | .pue => !g.dirs.getLsbD i.val
  | .out => false

/-- The registers are as the command is to leave them: the selected lines set, every other bit of the direction and
pull-up registers as in `m₀`. -/
structure Settled (g : Directing) (m₀ m : Memory) : Prop where
  set (i : Fin 8) (r : Reg) : g.mask.getLsbD i.val = true → r ≠ .out →
    m.bit r g.map[i].port g.map[i].bit = g.value i r
  kept (r : Reg) (p b : Nat) : r ≠ .out → ¬selected g.map g.mask p b → m.bit r p b = m₀.bit r p b

/-- Settled registers are the directions set in the sense of the statements. -/
theorem Settled.setsDirections {g : Directing} {s t : State} (h : g.Settled s.mem t.mem)
    (hinv : g.inv = Config.dirInv s.profile.kind) : setsDirections g.map g.mask g.dirs s t := by
  refine ⟨fun i hi => ⟨?_, ?_⟩, fun p b hb => ⟨?_, ?_⟩⟩
  · rw [h.set i .dir hi nofun, ← hinv]; rfl
  · rw [h.set i .pue hi nofun]; rfl
  · exact h.kept .dir p b nofun hb
  · exact h.kept .pue p b nofun hb

/-- Settled registers pair every selected line (R32). -/
theorem Settled.paired {g : Directing} {m₀ : Memory} {t : State} (h : g.Settled m₀ t.mem)
    (hinv : g.inv = Config.dirInv t.profile.kind) {i : Fin 8} (hi : g.mask.getLsbD i.val = true) :
    t.paired g.map[i].port g.map[i].bit := by
  rw [State.paired, State.outputLine, h.set i .pue hi nofun, h.set i .dir hi nofun, isOut, ← hinv, value, value]
  simp

end Directing

/-! ## What one access writes -/

/-- What an access puts into bit `b` of register `r` of port `p`, if it writes that bit. -/
def Access.writes {w : Nat} (a : Access w) (r : Reg) (p b : Nat) : Option Bool :=
  match a with
  | .mw r' q pm pv => if r = r' ∧ p = q ∧ pm.getLsbD b = true then some (pv.getLsbD b) else none
  | .rd _ => none

theorem Access.writes_mw_eq_some {w : Nat} {r r' : Reg} {p q b : Nat} {pm pv : BitVec w} {v : Bool} :
    (Access.mw r' q pm pv).writes r p b = some v ↔
      (r = r' ∧ p = q ∧ pm.getLsbD b = true) ∧ pv.getLsbD b = v := by
  simp [Access.writes]

/-- The direction and pull-up registers after `m'` are those of `m` with the access performed. -/
def Access.Lands {w : Nat} (a : Access w) (m m' : Memory) : Prop :=
  ∀ (r : Reg) (p b : Nat), r ≠ .out → m'.bit r p b = (a.writes r p b).getD (m.bit r p b)

/-- A masked write on a port of the build. -/
def Access.IsWriteOn {w : Nat} (pf : Profile) (a : Access w) : Prop :=
  ∃ r p pm pv, a = .mw r p pm pv ∧ p ∈ pf.ports

theorem mem_mwList {w : Nat} {r : Reg} {p : Nat} {pm pv : BitVec w} {a : Access w} :
    a ∈ mwList r p pm pv ↔ pm ≠ 0#w ∧ a = .mw r p pm pv := by
  unfold mwList
  split <;> simp_all

/-- A change of an 8-bit port performs the write when it merges the value into the written register and keeps the
others; the latch register does not matter here. -/
theorem Access.lands_modify8 {m : Memory} {pf : Profile} (hfits : m.fits pf = true) (hk : pf.kind ≠ .wide) {r : Reg}
    {p : Nat} (hp : p ∈ pf.ports) {pm pv : Byte} {f : Regs 8 → Regs 8}
    (hf : ∀ r' : Reg, r' ≠ .out → (f (m.port8 p)).get r' = ((m.port8 p).masked r pm pv).get r') :
    (Access.mw r p pm pv).Lands m (m.modify8 p f) := by
  obtain ⟨ps, rfl, hps⟩ := Memory.fits_narrow hfits hk
  intro r' q b hr'
  rw [Memory.bit_modify8 (hps ▸ hp), Access.writes]
  by_cases hq : q = p
  · subst hq
    rw [if_pos rfl, hf r' hr', Regs.get_masked, Memory.bit_bytes]
    by_cases hr : r' = r
    · subst hr
      rw [if_pos rfl, getLsbD_merge]
      by_cases hpm : pm.getLsbD b = true <;> simp [hpm]
    · simp [hr]
  · simp [hq]

/-- On NATIVE the access itself performs the write. -/
theorem Access.lands_native {s : State} (hfits : s.mem.fits s.profile = true) (hk : s.profile.kind ≠ .wide)
    {a : Access 8} (ha : a.IsWriteOn s.profile) : a.Lands s.mem (nativeAccess s a).mem := by
  obtain ⟨r, p, pm, pv, rfl, hp⟩ := ha
  exact lands_modify8 (f := fun g => g.masked r pm pv) hfits hk hp fun _ _ => rfl

/-- So does, on REMOTE, replacing the register by a merge that agrees with its content off the mask. -/
theorem Access.lands_set {m : Memory} {pf : Profile} (hfits : m.fits pf = true) (hk : pf.kind ≠ .wide) {r : Reg}
    {p : Nat} (hp : p ∈ pf.ports) {pm pv old : Byte}
    (hold : r ≠ .out → merge old pm pv = merge ((m.port8 p).get r) pm pv) :
    (Access.mw r p pm pv).Lands m (m.modify8 p fun g => g.set r (merge old pm pv)) := by
  refine lands_modify8 hfits hk hp fun r' hr' => ?_
  by_cases hr : r' = r
  · subst hr
    rw [Regs.masked, hold hr']
  · rw [Regs.masked, Regs.get_set_other _ _ hr, Regs.get_set_other _ _ hr]

/-- So does the primitive on WIDE. -/
theorem Access.lands_wide {s : State} (hwf : s.profile.wf = true) (hfits : s.mem.fits s.profile = true)
    (hk : s.profile.kind = .wide) {a : Access 32} (ha : a.IsWriteOn s.profile) :
    a.Lands s.mem (wideAccess s a).mem := by
  obtain ⟨r, p, pm, pv, rfl, hp⟩ := ha
  obtain ⟨g, hmem⟩ := Memory.fits_wide hfits hk
  obtain ⟨-, -, -, -, hports, -⟩ := wf_checks hwf
  have hp0 : p = 0 := by simpa [(by simpa [Profile.portsOfKind, hk] using hports : s.profile.ports = [0])] using hp
  subst hp0
  have haccess : (wideAccess s (.mw r 0 pm pv)).mem = s.mem.modify32 fun g => g.masked r pm pv := by
    cases r <;> rfl
  intro r' q b hr'
  rw [haccess, hmem, Memory.bit_modify32_masked, Access.writes]
  split <;> rfl

/-! ## How far a command has come -/

namespace Directing

/-- Every direction or pull-up bit the access writes is a selected line's, at the value it is to have. -/
def Directs {w : Nat} (g : Directing) (a : Access w) : Prop :=
  ∀ (r : Reg) (p b : Nat) (v : Bool), r ≠ .out → a.writes r p b = some v →
    selected g.map g.mask p b ∧ ∀ i : Fin 8, g.map[i].port = p → g.map[i].bit = b → v = g.value i r

/-- The accesses carry out the command: masked writes on the build's ports, each one right, and together they write
every selected line's bits. -/
structure PlannedBy {w : Nat} (g : Directing) (pf : Profile) (as : List (Access w)) : Prop where
  onPorts (a : Access w) : a ∈ as → a.IsWriteOn pf
  directs (a : Access w) : a ∈ as → g.Directs a
  covers (i : Fin 8) (r : Reg) : g.mask.getLsbD i.val = true → r ≠ .out →
    ∃ a ∈ as, (a.writes r g.map[i].port g.map[i].bit).isSome

/-- From `m₀` to `m` the accesses `as` have taken effect, and nothing that the command does not select has
changed. -/
structure Progress {w : Nat} (g : Directing) (as : List (Access w)) (m₀ m : Memory) : Prop where
  set (a : Access w) (i : Fin 8) (r : Reg) : a ∈ as → r ≠ .out →
    (a.writes r g.map[i].port g.map[i].bit).isSome → m.bit r g.map[i].port g.map[i].bit = g.value i r
  kept (r : Reg) (p b : Nat) : r ≠ .out → ¬selected g.map g.mask p b → m.bit r p b = m₀.bit r p b

namespace Progress

variable {w : Nat} {g : Directing} {pf : Profile} {as as' : List (Access w)} {m₀ m m' : Memory}

theorem nil (g : Directing) (m₀ : Memory) : g.Progress ([] : List (Access w)) m₀ m₀ where
  set := nofun
  kept _ _ _ _ _ := rfl

theorem mono (h : g.Progress as m₀ m) (hsub : as' ⊆ as) : g.Progress as' m₀ m where
  set a i r ha := h.set a i r (hsub ha)
  kept := h.kept

/-- One more access that is right takes effect: what was set stays set. -/
theorem snoc (h : g.Progress as m₀ m) {a : Access w} (hdirects : g.Directs a) (hlands : a.Lands m m') :
    g.Progress (as ++ [a]) m₀ m' where
  set c i r hc hr hsome := by
    rw [hlands r _ _ hr]
    cases hw : a.writes r g.map[i].port g.map[i].bit with
    | some v =>
      obtain ⟨-, hv⟩ := hdirects r _ _ v hr hw
      exact hv i rfl rfl
    | none =>
      rcases List.mem_append.mp hc with hc | hc
      · exact h.set c i r hc hr hsome
      · rw [List.mem_singleton.mp hc, hw] at hsome
        cases hsome
  kept r p b hr hb := by
    rw [hlands r p b hr]
    cases hw : a.writes r p b with
    | some v =>
      obtain ⟨hsel, -⟩ := hdirects r p b v hr hw
      exact absurd hsel hb
    | none => exact h.kept r p b hr hb

/-- When all accesses have taken effect the registers are settled. -/
theorem settled (h : g.Progress as m₀ m) (hplan : g.PlannedBy pf as) : g.Settled m₀ m where
  set i r hi hr := by
    obtain ⟨a, ha, hsome⟩ := hplan.covers i r hi hr
    exact h.set a i r ha hr hsome
  kept := h.kept

/-- The `k`-th access takes effect after the first `k`. -/
theorem take_succ {k : Nat} (h : g.Progress (as.take k) m₀ m) {a : Access w} (ha : as[k]? = some a)
    (hdirects : g.Directs a) (hlands : a.Lands m m') : g.Progress (as.take (k + 1)) m₀ m' := by
  rw [List.take_add_one, ha]
  exact h.snoc hdirects hlands

/-- Having performed the first `k` accesses is having performed all, when there are no more. -/
theorem settled_of_length_le {k : Nat} (h : g.Progress (as.take k) m₀ m) (hplan : g.PlannedBy pf as)
    (hk : as.length ≤ k) : g.Settled m₀ m := by
  rw [List.take_of_length_le hk] at h
  exact h.settled hplan

end Progress

end Directing

end Sys2Proof.Machine
end

section
/-! # The transactions of a direction command -/

namespace Sys2Proof.Machine

/-! ## The identifiers of a port's registers -/

/-- A pair of an association list whose keys are distinct is what its key looks up. -/
theorem lookup_eq_some_of_mem {l : List (Byte × RemoteReg)} {id : Byte} {c : RemoteReg} (h : (id, c) ∈ l)
    (hnodup : (l.map (·.1)).Nodup) : l.lookup id = some c := by
  obtain ⟨l₁, l₂, rfl⟩ := List.append_of_mem h
  refine List.lookup_eq_some_iff.mpr ⟨l₁, l₂, rfl, fun e he => ?_⟩
  rw [List.map_append, List.nodup_append] at hnodup
  obtain ⟨-, -, hdisjoint⟩ := hnodup
  simpa using (hdisjoint e.1 (List.mem_map_of_mem he) id (by simp)).symm

/-- The class of the identifier through which a register is written (R33). -/
def remoteRegOf (p : Nat) : Reg → RemoteReg
  | .dir => .dir p
  | .pue => .pue p
  | .out => .port p

/-- The identifiers of a port of a well-formed REMOTE profile are listed (R23(e)). -/
theorem idsOf_mem {pf : Profile} (hwf : pf.wf = true) (hk : pf.kind = .remote) {p : Nat} (hp : p ∈ pf.ports) :
    idsOf pf p ∈ pf.remoteIds ∧ (idsOf pf p).port = p := by
  obtain ⟨-, -, -, -, -, hids⟩ := wf_checks hwf
  simp only [Profile.idsDistinct, hk, Bool.and_eq_true, beq_iff_eq] at hids
  obtain ⟨⟨hports, -⟩, -⟩ := hids
  rw [← hports, List.mem_map] at hp
  obtain ⟨x, hx, hxp⟩ := hp
  unfold idsOf
  cases hfind : pf.remoteIds.find? fun r => r.port == p with
  | none => exact absurd (List.find?_eq_none.mp hfind x hx) (by simpa using hxp)
  | some y => exact ⟨List.mem_of_find?_eq_some hfind, by simpa using List.find?_some hfind⟩

/-- On REMOTE the identifier of a register of a port names that register. -/
theorem remoteClass_regId {pf : Profile} (hwf : pf.wf = true) (hk : pf.kind = .remote) {p : Nat}
    (hp : p ∈ pf.ports) (r : Reg) : remoteClass pf (regId pf r p) = some (remoteRegOf p r) := by
  obtain ⟨hmem, hport⟩ := idsOf_mem hwf hk hp
  obtain ⟨-, -, -, -, -, hids⟩ := wf_checks hwf
  simp only [Profile.idsDistinct, hk, Bool.and_eq_true, decide_eq_true_eq] at hids
  obtain ⟨⟨-, hnodup⟩, -⟩ := hids
  refine lookup_eq_some_of_mem (List.mem_cons_of_mem _ (List.mem_flatMap.mpr ⟨_, hmem, ?_⟩))
    (remoteTable_keys pf ▸ hnodup)
  cases r <;> simp [RemoteIds.classes, regId, remoteRegOf, hport]

/-- A write through a register's identifier replaces that register (R155). -/
theorem remWrite_regId {s : State} (hwf : s.profile.wf = true) (hk : s.profile.kind = .remote) {p : Nat}
    (hp : p ∈ s.profile.ports) (r : Reg) (v : Byte) :
    (remWrite (regId s.profile r p) v s).mem = s.mem.modify8 p fun g => g.set r v := by
  rw [remWrite, remoteClass_regId hwf hk hp r]
  cases r <;> rfl

/-- A read through the identifier of a direction or pull-up register returns its content (R154). -/
theorem remRead_regId {s : State} (hwf : s.profile.wf = true) (hk : s.profile.kind = .remote) {p : Nat}
    (hp : p ∈ s.profile.ports) {r : Reg} (hr : r ≠ .out) :
    remRead (regId s.profile r p) s = (s.mem.port8 p).get r := by
  rw [remRead, remoteClass_regId hwf hk hp r]
  cases r with
  | out => exact absurd rfl hr
  | dir => rfl
  | pue => rfl

/-! ## The transactions of a list of masked writes -/

section
variable {pf : Profile} {as : List (Access 8)} (h : ∀ a ∈ as, a.IsWriteOn pf)
include h

/-- Each masked write is two transactions (R128). -/
theorem length_xacts : (as.flatMap (Access.xacts pf)).length = 2 * as.length := by
  induction as with
  | nil => rfl
  | cons a as ih =>
    obtain ⟨r, p, pm, pv, rfl, -⟩ := h a (List.mem_cons_self ..)
    rw [List.flatMap_cons, List.length_append, ih fun c hc => h c (List.mem_cons_of_mem _ hc), List.length_cons]
    simp only [Access.xacts, List.length_cons, List.length_nil]
    omega

/-- The `j`-th transaction is one of the two of the `j/2`-th write. -/
theorem getElem?_xacts (j : Nat) :
    (as.flatMap (Access.xacts pf))[j]? = as[j / 2]?.bind fun a => (a.xacts pf)[j % 2]? := by
  induction as generalizing j with
  | nil => rfl
  | cons a as ih =>
    obtain ⟨r, p, pm, pv, rfl, -⟩ := h a (List.mem_cons_self ..)
    match j with
    | 0 => rfl
    | 1 => rfl
    | j + 2 =>
      rw [show (j + 2) / 2 = j / 2 + 1 by omega, Nat.add_mod_right, List.getElem?_cons_succ,
        ← ih (fun c hc => h c (List.mem_cons_of_mem _ hc))]
      rfl

end

end Sys2Proof.Machine
end

section
/-! # One step of a direction command

How far the command has come between steps, by the kind of the build, and that every step takes it further. -/

namespace Sys2Proof.Machine

/-! ## Between steps -/

/-- Between the two transactions of a write, MAIN's latch holds the register's content where the write's mask does
not replace it. -/
def State.latchReady (as : List (Access 8)) (s : State) : Prop :=
  ∀ (r : Reg) (p : Nat) (pm pv : Byte), s.useq % 2 = 1 → as[s.useq / 2]? = some (.mw r p pm pv) → r ≠ .out →
    merge s.t pm pv = merge ((s.mem.port8 p).get r) pm pv

/-- The command is in progress from registers `m₀`: nothing done on NATIVE, the first `USEQ` primitives on WIDE, the
write of every second transaction on REMOTE. -/
def Plan.Midway (c : Plan) (g : Directing) (m₀ : Memory) (s : State) : Prop :=
  match s.profile.kind with
  | .native => g.Progress ([] : List (Access 8)) m₀ s.mem
  | .wide => g.Progress (c.wide.take s.useq) m₀ s.mem
  | .remote => g.Progress (c.narrow.take (s.useq / 2)) m₀ s.mem ∧ s.latchReady c.narrow

section
variable {c : Plan} {g : Directing} {m₀ : Memory} {s t : State}

theorem Plan.midway_native (hk : s.profile.kind = .native) :
    c.Midway g m₀ s ↔ g.Progress ([] : List (Access 8)) m₀ s.mem := by
  simp only [Plan.Midway, hk]

theorem Plan.midway_wide (hk : s.profile.kind = .wide) :
    c.Midway g m₀ s ↔ g.Progress (c.wide.take s.useq) m₀ s.mem := by
  simp only [Plan.Midway, hk]

theorem Plan.midway_remote (hk : s.profile.kind = .remote) :
    c.Midway g m₀ s ↔ g.Progress (c.narrow.take (s.useq / 2)) m₀ s.mem ∧ s.latchReady c.narrow := by
  simp only [Plan.Midway, hk]

/-- Only the build, the registers, `USEQ` and `T` say how far a command has come. -/
theorem Plan.midway_congr (h : c.Midway g m₀ s) (hprofile : t.profile = s.profile) (hmem : t.mem = s.mem)
    (huseq : t.useq = s.useq) (ht : t.t = s.t) : c.Midway g m₀ t := by
  simpa only [Plan.Midway, State.latchReady, hprofile, hmem, huseq, ht] using h

/-- A command is midway when it begins. -/
theorem Plan.midway_begin (huseq : s.useq = 0) : c.Midway g s.mem s := by
  cases hk : s.profile.kind with
  | native => exact (midway_native hk).mpr (.nil ..)
  | wide => rw [midway_wide hk, huseq]; exact .nil ..
  | remote =>
    rw [midway_remote hk, huseq]
    exact ⟨.nil .., fun r p pm pv hodd => by rw [huseq] at hodd; cases hodd⟩

end

/-- After a step of the command it is still midway, or it has completed and its registers are settled. -/
structure Plan.StepsTo (c : Plan) (g : Directing) (m₀ : Memory) (t : State) : Prop where
  midway : t.active = true → c.Midway g m₀ t
  settled : t.active = false → g.Settled m₀ t.mem

/-- The plan carries out the directions on every kind of build. -/
structure Directing.Plans (g : Directing) (pf : Profile) (c : Plan) : Prop where
  narrow : pf.kind ≠ .wide → g.PlannedBy pf c.narrow
  wide : pf.kind = .wide → g.PlannedBy pf c.wide
  inv_eq : g.inv = Config.dirInv pf.kind

/-! ## The step, by kind -/

/-- Performing accesses one after another on NATIVE. -/
theorem Directing.Progress.foldl_nativeAccess {g : Directing} {pf : Profile} {m₀ : Memory} (hk : pf.kind ≠ .wide)
    {as : List (Access 8)} (has : ∀ a ∈ as, a.IsWriteOn pf ∧ g.Directs a) :
    ∀ {done : List (Access 8)} {s : State}, s.profile = pf → s.mem.fits pf = true → g.Progress done m₀ s.mem →
      g.Progress (done ++ as) m₀ (as.foldl nativeAccess s).mem := by
  induction as with
  | nil => intro done s _ _ h; simpa using h
  | cons a as ih =>
    rintro done s rfl hfits h
    obtain ⟨hon, hdirects⟩ := has a (List.mem_cons_self ..)
    have hkeep := MainKeeps.nativeAccess s a
    rw [List.foldl_cons, List.append_cons]
    exact ih (fun c hc => has c (List.mem_cons_of_mem _ hc)) hkeep.profile ((hkeep.memFits _).trans hfits)
      (h.snoc hdirects (Access.lands_native hfits hk hon))

section
variable {c : Plan} {g : Directing} {m₀ : Memory} {s : State} (hbuild : s.buildOk = true)
  (hplan : g.Plans s.profile c) (h : c.Midway g m₀ s)
include hbuild hplan h

/-- On NATIVE the one step performs every access. -/
theorem Plan.stepsTo_native (hk : s.profile.kind = .native) : c.StepsTo g m₀ (c.run s) := by
  obtain ⟨-, hfits⟩ := s.buildOk_iff.mp hbuild
  have hnarrow : g.PlannedBy s.profile c.narrow := hplan.narrow (by simp [hk])
  have hall := Directing.Progress.foldl_nativeAccess (by simp [hk])
    (fun a ha => ⟨hnarrow.onPorts a ha, hnarrow.directs a ha⟩) rfl hfits ((midway_native hk).mp h)
  rw [c.run_native hk]
  exact ⟨nofun, fun _ => hall.settled hnarrow⟩

/-- On WIDE a step performs the next primitive. -/
theorem Plan.stepsTo_wide (hact : s.active = true) (hk : s.profile.kind = .wide) : c.StepsTo g m₀ (c.run s) := by
  obtain ⟨hwf, hfits⟩ := s.buildOk_iff.mp hbuild
  have hwide : g.PlannedBy s.profile c.wide := hplan.wide hk
  have hprogress := (midway_wide hk).mp h
  rw [c.run_wide hk, runWide]
  cases ha : c.wide[s.useq]? with
  | none => exact ⟨nofun, fun _ => hprogress.settled_of_length_le hwide (List.getElem?_eq_none_iff.mp ha)⟩
  | some a =>
    have hkeep := MainKeeps.wideAccess s a
    have hmem := List.mem_of_getElem? ha
    have hnext := hprogress.take_succ ha (hwide.directs a hmem) (Access.lands_wide hwf hfits hk (hwide.onPorts a hmem))
    refine ⟨fun _ => (midway_wide ?_).mpr ?_, fun hdone => ?_⟩
    · simpa [hkeep.profile] using hk
    · simpa using hnext
    · refine Directing.Progress.settled_of_length_le (k := s.useq + 1) (by simpa using hnext) hwide ?_
      simpa using State.le_of_advance_done (by simpa using hact) hdone

omit hplan in
/-- On REMOTE a step at the read of a write's register leaves the registers alone, and when the read is done the
latch holds that register. -/
theorem Plan.stepsTo_readT {r : Reg} {p : Nat} {pm pv : Byte} {len : Nat} {t : State} (hact : s.active = true)
    (hk : s.profile.kind = .remote) (heven : s.useq % 2 = 0)
    (ha : c.narrow[s.useq / 2]? = some (.mw r p pm pv)) (hp : p ∈ s.profile.ports) (hlen : s.useq + 1 < len)
    (hmoves : (Xact.readT (regId s.profile r p)).Moves len s t) : c.StepsTo g m₀ t := by
  obtain ⟨hwf, -⟩ := s.buildOk_iff.mp hbuild
  obtain ⟨hprogress, -⟩ := (midway_remote hk).mp h
  have heffect : ((Xact.readT (regId s.profile r p)).request s).effect s = s := Request.effect_read _ _ rfl
  have hhalf : (s.useq + 1) / 2 = s.useq / 2 := by omega
  rcases hmoves with rfl | ⟨res, rfl⟩ | ⟨slot, landed, rfl⟩
  · exact ⟨fun _ => h, fun hdone => by rw [hact] at hdone; cases hdone⟩
  · refine ⟨fun _ => (midway_remote (by simpa [Xact.keep] using hk)).mpr ⟨?_, ?_⟩, fun hdone => ?_⟩
    · simpa [Xact.keep, heffect, hhalf] using hprogress
    · intro r' p' pm' pv' _ hget hr'
      simp only [State.advance_useq, Xact.keep, Request.served_useq, hhalf, ha, Option.some.injEq,
        Access.mw.injEq] at hget
      obtain ⟨rfl, rfl, rfl, rfl⟩ := hget
      simp only [State.advance_t, State.advance_mem, Xact.keep, Request.served_mem, heffect]
      rw [← remRead_regId hwf hk hp hr']
      rfl
    · have := State.le_of_advance_done (by simpa [Xact.keep] using hact) hdone
      simp only [Xact.keep, Request.served_useq] at this
      omega
  · have hmem : (((Xact.readT (regId s.profile r p)).request s).stalled slot landed s).mem = s.mem := by
      rcases Request.stalled_mem _ slot landed s with hmem | hmem <;> rw [hmem]
      rw [heffect]
    exact ⟨fun _ => midway_congr h (by simp) hmem (by simp) (by simp),
      fun hdone => by simp [hact] at hdone⟩

/-- On REMOTE a step at the write performs it, now or when it has landed in a wait; when it is done the command is
past that access. -/
theorem Plan.stepsTo_writeT {r : Reg} {p : Nat} {pm pv : Byte} {len : Nat} {t : State} (hact : s.active = true)
    (hk : s.profile.kind = .remote) (hodd : s.useq % 2 = 1)
    (ha : c.narrow[s.useq / 2]? = some (.mw r p pm pv)) (hp : p ∈ s.profile.ports)
    (hlen : len = 2 * c.narrow.length)
    (hmoves : (Xact.writeT (regId s.profile r p) pm pv).Moves len s t) : c.StepsTo g m₀ t := by
  obtain ⟨hwf, hfits⟩ := s.buildOk_iff.mp hbuild
  obtain ⟨hprogress, hlatch⟩ := (midway_remote hk).mp h
  have hnarrow : g.PlannedBy s.profile c.narrow := hplan.narrow (by simp [hk])
  have heffect : (((Xact.writeT (regId s.profile r p) pm pv).request s).effect s).mem =
      s.mem.modify8 p fun x => x.set r (merge s.t pm pv) := remWrite_regId hwf hk hp r _
  have hlands := Access.lands_set hfits (by simp [hk]) hp (hlatch r p pm pv hodd ha)
  rw [← heffect] at hlands
  have hnext := hprogress.take_succ ha (hnarrow.directs _ (List.mem_of_getElem? ha)) hlands
  have hhalf : (s.useq + 1) / 2 = s.useq / 2 + 1 := by omega
  rcases hmoves with rfl | ⟨res, rfl⟩ | ⟨slot, landed, rfl⟩
  · exact ⟨fun _ => h, fun hdone => by rw [hact] at hdone; cases hdone⟩
  · refine ⟨fun _ => (midway_remote (by simpa [Xact.keep] using hk)).mpr ⟨?_, ?_⟩, fun hdone => ?_⟩
    · simpa [Xact.keep, hhalf] using hnext
    · intro r' p' pm' pv' hodd'
      simp only [State.advance_useq, Xact.keep, Request.served_useq] at hodd'
      omega
    · refine Directing.Progress.settled_of_length_le (k := s.useq / 2 + 1) (by simpa [Xact.keep] using hnext)
        hnarrow ?_
      have := State.le_of_advance_done (by simpa [Xact.keep] using hact) hdone
      simp only [Xact.keep, Request.served_useq] at this
      omega
  · refine ⟨fun _ => ?_, fun hdone => by simp [hact] at hdone⟩
    rcases Request.stalled_mem ((Xact.writeT (regId s.profile r p) pm pv).request s) slot landed s with hmem | hmem
    · exact midway_congr h (by simp) hmem (by simp) (by simp)
    · refine (midway_remote (by simpa using hk)).mpr ⟨?_, ?_⟩
      · rw [hmem, Request.stalled_useq]
        exact hnext.mono (List.take_subset_take_left _ (Nat.le_succ _))
      · intro r' p' pm' pv' _ hget hr'
        simp only [Request.stalled_useq, ha, Option.some.injEq, Access.mw.injEq] at hget
        obtain ⟨rfl, rfl, rfl, rfl⟩ := hget
        obtain ⟨ps, hps, hports⟩ := Memory.fits_narrow hfits (by simp [hk])
        rw [hmem, heffect, Request.stalled_t, hps, Memory.port8_modify8_same _ (hports ▸ hp), Regs.get_set_same,
          merge_merge]

/-- On REMOTE a step takes the next transaction. -/
theorem Plan.stepsTo_remote (hact : s.active = true) (hk : s.profile.kind = .remote) :
    c.StepsTo g m₀ (c.run s) := by
  have hnarrow : g.PlannedBy s.profile c.narrow := hplan.narrow (by simp [hk])
  have hlen := length_xacts hnarrow.onPorts
  rw [c.run_remote hk]
  rcases runRemote_cases (c.narrow.flatMap (Access.xacts s.profile)) c.result s with
    ⟨hnone, res, hrun⟩ | ⟨x, hx, hmoves⟩
  · rw [List.getElem?_eq_none_iff, hlen] at hnone
    obtain ⟨hprogress, -⟩ := (midway_remote hk).mp h
    rw [hrun]
    exact ⟨nofun, fun _ => hprogress.settled_of_length_le hnarrow (by omega)⟩
  · rw [getElem?_xacts hnarrow.onPorts, Option.bind_eq_some_iff] at hx
    obtain ⟨a, ha, hxa⟩ := hx
    obtain ⟨r, p, pm, pv, rfl, hp⟩ := hnarrow.onPorts a (List.mem_of_getElem? ha)
    obtain ⟨hlt, -⟩ := List.getElem?_eq_some_iff.mp ha
    rcases Nat.mod_two_eq_zero_or_one s.useq with heven | hodd
    · rw [heven] at hxa
      cases hxa
      exact stepsTo_readT hbuild h hact hk heven ha hp (by omega) hmoves
    · rw [hodd] at hxa
      cases hxa
      exact stepsTo_writeT hbuild hplan h hact hk hodd ha hp hlen hmoves

/-- One step of the command, on any kind of build. -/
theorem Plan.stepsTo (hact : s.active = true) : c.StepsTo g m₀ (c.run s) := by
  cases hk : s.profile.kind with
  | native => exact stepsTo_native hbuild hplan h hk
  | wide => exact stepsTo_wide hbuild hplan h hact hk
  | remote => exact stepsTo_remote hbuild hplan h hact hk

end

end Sys2Proof.Machine
end

section
/-! # The run of a direction command

The handler's reads, notifications and stalls lie between MAIN's steps; none of them changes what `Plan.Midway`
speaks of. -/

namespace Sys2Proof.Machine

/-! ## What lies between MAIN's steps -/

/-- HND's step changes neither the command in progress nor a register. -/
structure HandlerKeeps (s u : State) : Prop where
  profile : u.profile = s.profile
  mem : u.mem = s.mem
  op : u.op = s.op
  a : u.a = s.a
  b : u.b = s.b
  active : u.active = s.active
  useq : u.useq = s.useq
  t : u.t = s.t
  script : u.script = s.script

theorem hndStep_handlerKeeps (s : State) : HandlerKeeps s (hndStep s) := by
  rcases hndStep_cases s with ⟨-, -, h⟩ | ⟨-, h⟩ | ⟨slot, landed, -, h⟩ <;> rw [h] <;> constructor <;> rfl

/-- During a command the inputs of a step change no register (assumption log 17). -/
theorem State.inputs_mem_of_active {s : State} (hact : s.active = true) : s.inputs.mem = s.mem := by
  rw [State.inputs, State.applyForeign_of_active (by simpa using hact)]
  simp

/-- A script without a reset asks for none now, and none later. -/
theorem State.noReset_inputs {s : State} (h : s.noReset = true) :
    s.nextEnv.env.reset = false ∧ s.inputs.noReset = true := by
  have hscript : s.inputs.script = s.nextEnv.script := by simp [State.inputs]
  unfold State.noReset at h ⊢
  rw [hscript]
  unfold State.nextEnv
  cases hs : s.script with
  | nil => simp [Env.hold]
  | cons e es => simpa [hs] using h

/-! ## The run -/

/-- The command of a latched word is in progress, from the state `s₀` in which it had just been accepted. -/
structure Underway (c : Plan) (g : Directing) (s₀ s : State) : Prop where
  profile : s.profile = s₀.profile
  op : s.op = s₀.op
  a : s.a = s₀.a
  b : s.b = s₀.b
  noReset : s.noReset = true
  midway : c.Midway g s₀.mem s

/-- The latched word of `s₀` stands for a command whose every step is one of the plan `c`. -/
def RunsPlan (c : Plan) (s₀ : State) : Prop :=
  ∃ i, decode (packWord s₀.op s₀.a s₀.b) = .ok i ∧ ∀ s : State, s.profile = s₀.profile → exec i s = .next (c.run s)

section
variable {c : Plan} {g : Directing} {s₀ s t : State} (hword : RunsPlan c s₀) (hplan : g.Plans s₀.profile c)
include hword hplan

/-- One step of the machine during the command: it is still under way, or it has completed and its registers are
settled. -/
theorem Underway.step (h : Underway c g s₀ s) (hact : s.active = true) (hstep : step s = .next t) :
    t.profile = s₀.profile ∧ (t.active = true → Underway c g s₀ t) ∧
      (t.active = false → g.Settled s₀.mem t.mem) := by
  obtain ⟨hreset, hscript⟩ := State.noReset_inputs h.noReset
  have hinputs : Underway c g s₀ s.inputs :=
    ⟨s.inputs_profile.trans h.profile, s.inputs_op.trans h.op, s.inputs_a.trans h.a, s.inputs_b.trans h.b, hscript,
      Plan.midway_congr h.midway s.inputs_profile (State.inputs_mem_of_active hact) s.inputs_useq s.inputs_t⟩
  have hact' : s.inputs.active = true := by simpa using hact
  obtain ⟨hbuild, ⟨hr, -⟩ | ⟨-, -, rfl⟩ | ⟨-, -, hmain⟩⟩ := step_cases hstep
  · rw [hreset] at hr
    cases hr
  · have hkeep := hndStep_handlerKeeps s.inputs
    refine ⟨hkeep.profile.trans hinputs.profile, fun _ => ?_, fun hdone => ?_⟩
    · exact ⟨hkeep.profile.trans hinputs.profile, hkeep.op.trans hinputs.op, hkeep.a.trans hinputs.a,
        hkeep.b.trans hinputs.b, by rw [State.noReset, hkeep.script]; exact hscript,
        Plan.midway_congr hinputs.midway hkeep.profile hkeep.mem hkeep.useq hkeep.t⟩
    · rw [hkeep.active, hact'] at hdone
      cases hdone
  · obtain ⟨i, hdec, hexec⟩ := hword
    have hbuild' : s.inputs.buildOk = true := by
      rw [State.buildOk, s.inputs_profile, State.inputs_mem_of_active hact]
      exact hbuild
    rw [mainStep, if_pos hact', hinputs.op, hinputs.a, hinputs.b, execWord_ok _ hdec,
      hexec _ hinputs.profile] at hmain
    injection hmain with hmain
    subst hmain
    have hkeep := MainKeeps.plan c s.inputs
    have hsteps := Plan.stepsTo hbuild' (hinputs.profile ▸ hplan) hinputs.midway hact'
    refine ⟨hkeep.profile.trans hinputs.profile, fun hgoing => ?_, hsteps.settled⟩
    exact ⟨hkeep.profile.trans hinputs.profile, hkeep.op.trans hinputs.op, hkeep.a.trans hinputs.a,
      hkeep.b.trans hinputs.b, by rw [State.noReset, hkeep.script]; exact hscript, hsteps.midway hgoing⟩

/-- The run, by induction on its steps. -/
theorem Underway.runUntilDone (n : Nat) (h : Underway c g s₀ s) (hact : s.active = true)
    (hrun : runUntilDone n s = .next t) (hdone : t.active = false) :
    t.profile = s₀.profile ∧ g.Settled s₀.mem t.mem := by
  induction n generalizing s with
  | zero =>
    injection hrun with hrun
    rw [← hrun, hact] at hdone
    cases hdone
  | succ n ih =>
    rw [Machine.runUntilDone, if_pos hact] at hrun
    split at hrun
    next u hstep =>
      obtain ⟨hprofile, hgoing, hsettled⟩ := h.step hword hplan hact hstep
      cases hu : u.active with
      | true => exact ih (hgoing hu) hu hrun
      | false =>
        have hut : u = t := by
          cases n <;> simpa [Machine.runUntilDone, hu] using hrun
        exact hut ▸ ⟨hprofile, hsettled hu⟩
    next => cases hrun
    next => cases hrun

/-- A command just accepted ends, whenever it does, with its directions set and every selected line paired. -/
theorem directions_paired_of_runUntilDone (n : Nat) (hact : s₀.active = true) (huseq : s₀.useq = 0)
    (hscript : s₀.noReset = true) (hrun : runUntilDone n s₀ = .next t) (hdone : t.active = false) :
    setsDirections g.map g.mask g.dirs s₀ t ∧
      ∀ i : Fin 8, g.mask.getLsbD i.val = true → t.paired g.map[i].port g.map[i].bit := by
  have hbegin : Underway c g s₀ s₀ := ⟨rfl, rfl, rfl, rfl, hscript, Plan.midway_begin huseq⟩
  obtain ⟨hprofile, hsettled⟩ := hbegin.runUntilDone hword hplan n hact hrun hdone
  exact ⟨hsettled.setsDirections hplan.inv_eq, fun i hi => hsettled.paired (hprofile ▸ hplan.inv_eq) hi⟩

end

end Sys2Proof.Machine
end

section
/-! # The plans of PREPIN, DRVDATA and SETCDIR -/

namespace Sys2Proof.Machine

namespace Directing

section
variable {g : Directing} {w : Nat} (hmap : WellPlaced g.map w)
include hmap

/-- A masked write is right when its mask selects lines of the command only and its value has their bits. -/
theorem directs_mw {r : Reg} {p : Nat} {m : Byte} {pv : BitVec w}
    (hm : ∀ i : Fin 8, m.getLsbD i.val = true → g.mask.getLsbD i.val = true)
    (hv : ∀ i : Fin 8, m.getLsbD i.val = true → g.map[i].port = p → pv.getLsbD g.map[i].bit = g.value i r) :
    g.Directs (.mw r p (smask g.map m p) pv) := by
  intro r' q b v hr' hw
  obtain ⟨⟨rfl, rfl, hb⟩, rfl⟩ := Access.writes_mw_eq_some.mp hw
  obtain ⟨i, hi, hport, rfl⟩ := (hmap.getLsbD_smask_iff m q b).mp hb
  refine ⟨⟨i, hm i hi, hport, rfl⟩, fun j hjp hjb => ?_⟩
  rw [hmap.injective i j (hjp.trans hport.symm) hjb]
  exact hv i hi hport

/-- All selected directions at once. -/
theorem directs_dir (p : Nat) :
    g.Directs (.mw .dir p (smask g.map g.mask p : BitVec w) (sdir g.inv g.map g.dirs p)) := by
  refine directs_mw hmap (fun _ hi => hi) fun i _ hp => ?_
  subst hp
  exact hmap.getLsbD_sdir g.inv g.dirs i

/-- Pull-ups on exactly the selected lines that become inputs, under any mask of selected lines. -/
theorem directs_pue {m : Byte} (p : Nat) (hm : ∀ i : Fin 8, m.getLsbD i.val = true → g.mask.getLsbD i.val = true) :
    g.Directs (.mw .pue p (smask g.map m p : BitVec w) (smask g.map (~~~g.dirs &&& g.mask) p)) := by
  refine directs_mw hmap hm fun i hi hp => ?_
  subst hp
  rw [hmap.getLsbD_smask]
  simp [value, hm i hi]

/-- Pull-ups off on selected lines that become outputs. -/
theorem directs_pue_off {m : Byte} (p : Nat)
    (hm : ∀ i : Fin 8, m.getLsbD i.val = true → g.mask.getLsbD i.val = true ∧ g.dirs.getLsbD i.val = true) :
    g.Directs (.mw .pue p (smask g.map m p : BitVec w) 0#w) := by
  refine directs_mw hmap (fun i hi => (hm i hi).1) fun i hi _ => ?_
  simp [value, (hm i hi).2]

/-- A masked write with a line under its mask is issued, and writes the line's bit. -/
theorem exists_writes_of_mwList {as : List (Access w)} {r : Reg} {m : Byte} {i : Fin 8} {pv : BitVec w}
    (hi : m.getLsbD i.val = true) (hsub : mwList r g.map[i].port (smask g.map m g.map[i].port) pv ⊆ as) :
    ∃ a ∈ as, (a.writes r g.map[i].port g.map[i].bit).isSome := by
  have hbit : (smask g.map m g.map[i].port : BitVec w).getLsbD g.map[i].bit = true := by
    rw [hmap.getLsbD_smask, hi]
  refine ⟨_, hsub (mem_mwList.mpr ⟨fun hzero => ?_, rfl⟩), by rw [Access.writes, if_pos ⟨rfl, rfl, hbit⟩]; rfl⟩
  rw [hzero, BitVec.getLsbD_zero] at hbit
  cases hbit

end

/-- The latch is no concern of the directions. -/
theorem directs_out {w : Nat} (g : Directing) (p : Nat) (pm pv : BitVec w) : g.Directs (.mw .out p pm pv) := by
  intro r q b v hr hw
  obtain ⟨⟨rfl, -⟩, -⟩ := Access.writes_mw_eq_some.mp hw
  exact absurd rfl hr

/-- Accesses issued port by port over the affected ports carry out the command when those of each port are right
and set the port's selected lines. -/
theorem plannedBy_flatMap_aff {g : Directing} {w : Nat} {pf : Profile} {f : Nat → List (Access w)}
    (hports : ∀ i : Fin 8, g.map[i].port ∈ pf.ports)
    (hdirects : ∀ p, ∀ a ∈ f p, (∃ r pm pv, a = .mw r p pm pv) ∧ g.Directs a)
    (hcovers : ∀ (i : Fin 8) (r : Reg), g.mask.getLsbD i.val = true → r ≠ .out →
      ∃ a ∈ f g.map[i].port, (a.writes r g.map[i].port g.map[i].bit).isSome) :
    g.PlannedBy pf ((aff pf g.map g.mask).flatMap f) where
  onPorts a ha := by
    obtain ⟨p, hp, ha⟩ := List.mem_flatMap.mp ha
    obtain ⟨⟨r, pm, pv, rfl⟩, -⟩ := hdirects p a ha
    exact ⟨r, p, pm, pv, rfl, (List.mem_filter.mp hp).1⟩
  directs a ha := by
    obtain ⟨p, -, ha⟩ := List.mem_flatMap.mp ha
    exact (hdirects p a ha).2
  covers i r hi hr := by
    obtain ⟨a, ha, hsome⟩ := hcovers i r hi hr
    have htouches : touches g.map g.mask g.map[i].port = true :=
      List.any_eq_true.mpr ⟨i, mem_positions i, by simp [hi]⟩
    exact ⟨a, List.mem_flatMap.mpr ⟨_, List.mem_filter.mpr ⟨hports i, htouches⟩, ha⟩, hsome⟩

/-- Per affected port the directions, then the pull-ups of the lines that become inputs: SETCDIR on 8-bit ports
(R204), and PREPIN. -/
theorem plannedBy_directions {g : Directing} {w : Nat} {pf : Profile} (hmap : WellPlaced g.map w)
    (hports : ∀ i : Fin 8, g.map[i].port ∈ pf.ports) :
    g.PlannedBy pf ((aff pf g.map g.mask).flatMap fun p =>
      mwList .dir p (smask g.map g.mask p : BitVec w) (sdir g.inv g.map g.dirs p) ++
        mwList .pue p (smask g.map g.mask p) (smask g.map (~~~g.dirs &&& g.mask) p)) := by
  refine plannedBy_flatMap_aff hports (fun p a ha => ?_) fun i r hi hr => ?_
  · simp only [List.mem_append, mem_mwList] at ha
    rcases ha with ⟨-, rfl⟩ | ⟨-, rfl⟩
    · exact ⟨⟨_, _, _, rfl⟩, directs_dir hmap p⟩
    · exact ⟨⟨_, _, _, rfl⟩, directs_pue hmap p fun _ hi => hi⟩
  · cases r with
    | out => exact absurd rfl hr
    | dir => exact exists_writes_of_mwList hmap hi (List.subset_append_left ..)
    | pue => exact exists_writes_of_mwList hmap hi (List.subset_append_right ..)

end Directing

/-! ## The three commands -/

/-- The width of a port of the kind is that of the accesses. -/
theorem width_narrow {k : Kind} (hk : k ≠ .wide) : Config.width k ≤ 8 := by
  cases k with
  | native => exact Nat.le_refl 8
  | remote => exact Nat.le_refl 8
  | wide => exact absurd rfl hk

theorem width_wide (k : Kind) : Config.width k ≤ 32 := by
  cases k <;> decide

/-- PREPIN: every data line an input (R180). -/
def prepinDirecting (pf : Profile) : Directing := ⟨pf.dmap, 0xFF#8, 0x00#8, Config.dirInv pf.kind⟩

/-- DRVDATA: every data line an output (R182). -/
def drvdataDirecting (pf : Profile) : Directing := ⟨pf.dmap, 0xFF#8, 0xFF#8, Config.dirInv pf.kind⟩

/-- SETCDIR: the masked control lines (R204). -/
def setcdirDirecting (pf : Profile) (bits mask : Byte) : Directing := ⟨pf.cmap, mask, bits, Config.dirInv pf.kind⟩

theorem getLsbD_allOnes8 (i : Fin 8) : (0xFF#8).getLsbD i.val = true := by
  revert i; decide

section
variable {pf : Profile} (hpf : pf.wf = true)
include hpf

theorem plannedBy_prepin {w : Nat} (hw : Config.width pf.kind ≤ w) :
    (prepinDirecting pf).PlannedBy pf (prepinAccesses w pf) := by
  have hplan := Directing.plannedBy_directions (g := prepinDirecting pf) (wellPlaced_dmap hpf hw)
    fun i => (wf_line hpf (mem_lines_dmap pf i)).1
  have hinputs : ~~~(prepinDirecting pf).dirs &&& (prepinDirecting pf).mask = 0xFF#8 := by
    simp [prepinDirecting]
  rw [hinputs] at hplan
  exact hplan

theorem prepin_plans : (prepinDirecting pf).Plans pf (prepinPlan pf) where
  narrow hk := plannedBy_prepin hpf (width_narrow hk)
  wide _ := plannedBy_prepin hpf (width_wide _)
  inv_eq := rfl

theorem plannedBy_drvdata {w : Nat} (v : Byte) (hw : Config.width pf.kind ≤ w) :
    (drvdataDirecting pf).PlannedBy pf (drvdataAccesses w pf v) := by
  have hmap : WellPlaced (drvdataDirecting pf).map w := wellPlaced_dmap hpf hw
  refine Directing.plannedBy_flatMap_aff (g := drvdataDirecting pf) (fun i => (wf_line hpf (mem_lines_dmap pf i)).1)
    (fun p a ha => ?_) fun i r hi hr => ?_
  · simp only [List.mem_append, mem_mwList] at ha
    rcases ha with (⟨-, rfl⟩ | ⟨-, rfl⟩) | ⟨-, rfl⟩
    · exact ⟨⟨_, _, _, rfl⟩, Directing.directs_pue_off hmap p fun i _ => ⟨getLsbD_allOnes8 i, getLsbD_allOnes8 i⟩⟩
    · exact ⟨⟨_, _, _, rfl⟩, Directing.directs_dir hmap p⟩
    · exact ⟨⟨_, _, _, rfl⟩, Directing.directs_out _ p _ _⟩
  · cases r with
    | out => exact absurd rfl hr
    | dir =>
      exact Directing.exists_writes_of_mwList hmap hi
        (List.subset_append_of_subset_left _ (List.subset_append_right ..))
    | pue =>
      exact Directing.exists_writes_of_mwList hmap hi
        (List.subset_append_of_subset_left _ (List.subset_append_left ..))

theorem drvdata_plans (v : Byte) : (drvdataDirecting pf).Plans pf (drvdataPlan pf v) where
  narrow hk := plannedBy_drvdata hpf v (width_narrow hk)
  wide _ := plannedBy_drvdata hpf v (width_wide _)
  inv_eq := rfl

/-- On WIDE every line is on port 0 (R133). -/
theorem cmap_port_wide (hk : pf.kind = .wide) (i : Fin 8) : pf.cmap[i].port = 0 ∧ 0 ∈ pf.ports := by
  obtain ⟨-, -, -, -, hports, -⟩ := wf_checks hpf
  have hports : pf.ports = [0] := by simpa [Profile.portsOfKind, hk] using hports
  have hport := (wf_line hpf (mem_lines_cmap pf i)).1
  rw [hports] at hport ⊢
  exact ⟨List.mem_singleton.mp hport, List.mem_singleton.mpr rfl⟩

/-- SETCDIR on WIDE: pull-ups off on the outputs, directions, pull-ups on for the inputs (R208). -/
theorem plannedBy_setcdirWide (hk : pf.kind = .wide) (bits mask : Byte) :
    (setcdirDirecting pf bits mask).PlannedBy pf (setcdirWide pf bits mask) := by
  have hmap : WellPlaced (setcdirDirecting pf bits mask).map 32 := wellPlaced_cmap hpf (width_wide _)
  have hright : ∀ a ∈ setcdirWide pf bits mask,
      (∃ r pm pv, a = .mw r 0 pm pv) ∧ (setcdirDirecting pf bits mask).Directs a := by
    intro a ha
    simp only [setcdirWide, List.mem_append, mem_mwList] at ha
    rcases ha with (⟨-, rfl⟩ | ⟨-, rfl⟩) | ⟨-, rfl⟩
    · exact ⟨⟨_, _, _, rfl⟩, Directing.directs_pue_off hmap 0 fun i hi => by
        simpa [setcdirDirecting, and_comm] using hi⟩
    · exact ⟨⟨_, _, _, rfl⟩, Directing.directs_dir hmap 0⟩
    · exact ⟨⟨_, _, _, rfl⟩, Directing.directs_pue hmap 0 fun i hi => by
        simp only [BitVec.getLsbD_and, Bool.and_eq_true] at hi
        exact hi.2⟩
  refine ⟨fun a ha => ?_, fun a ha => (hright a ha).2, fun i r hi hr => ?_⟩
  · obtain ⟨⟨r, pm, pv, rfl⟩, -⟩ := hright a ha
    exact ⟨r, 0, pm, pv, rfl, (cmap_port_wide hpf hk 0).2⟩
  · have hport : (setcdirDirecting pf bits mask).map[i].port = 0 := (cmap_port_wide hpf hk i).1
    have hcover : ∀ {r : Reg} {m : Byte} {pv : Word32}, m.getLsbD i.val = true →
        mwList r 0 (smask pf.cmap m 0) pv ⊆ setcdirWide pf bits mask →
        ∃ a ∈ setcdirWide pf bits mask, (a.writes r (setcdirDirecting pf bits mask).map[i].port
          (setcdirDirecting pf bits mask).map[i].bit).isSome := fun hm hsub =>
      Directing.exists_writes_of_mwList hmap hm (by rw [hport]; exact hsub)
    cases r with
    | out => exact absurd rfl hr
    | dir => exact hcover hi (List.subset_append_of_subset_left _ (List.subset_append_right ..))
    | pue =>
      cases hbit : bits.getLsbD i.val with
      | true =>
        exact hcover (m := bits &&& mask) (by simp only [BitVec.getLsbD_and, hbit]; exact hi)
          (List.subset_append_of_subset_left _ (List.subset_append_left ..))
      | false =>
        exact hcover (m := ~~~bits &&& mask) (by
          simp only [BitVec.getLsbD_and, BitVec.getLsbD_not, hbit, i.isLt, decide_true, Bool.not_false, Bool.true_and]
          exact hi) (List.subset_append_right ..)

theorem setcdir_plans (bits mask : Byte) : (setcdirDirecting pf bits mask).Plans pf (setcdirPlan pf bits mask) where
  narrow hk :=
    Directing.plannedBy_directions (g := setcdirDirecting pf bits mask) (wellPlaced_cmap hpf (width_narrow hk))
      fun i => (wf_line hpf (mem_lines_cmap pf i)).1
  wide hk := plannedBy_setcdirWide hpf hk bits mask
  inv_eq := rfl

end

/-- Settles O57: each command's plan carries out its directions, so its run ends with them set. -/
theorem pairingHoldsWhenACommandCompletes : Obligations.PairingHoldsWhenACommandCompletes := by
  intro n s t hbuild hact huseq _ hscript hrun hdone
  obtain ⟨hpf, -⟩ := s.buildOk_iff.mp hbuild
  refine ⟨fun hdec => ?_, fun v hdec => ?_, fun bits mask hdec => ?_⟩
  · have hword : RunsPlan (prepinPlan s.profile) s := ⟨_, hdec, fun u hu => by rw [← hu]; rfl⟩
    obtain ⟨hset, hpaired⟩ := directions_paired_of_runUntilDone hword (prepin_plans hpf) n hact huseq hscript hrun hdone
    exact ⟨hset, fun i => hpaired i (getLsbD_allOnes8 i)⟩
  · have hword : RunsPlan (drvdataPlan s.profile v) s := ⟨_, hdec, fun u hu => by rw [← hu]; rfl⟩
    obtain ⟨hset, hpaired⟩ :=
      directions_paired_of_runUntilDone hword (drvdata_plans hpf v) n hact huseq hscript hrun hdone
    exact ⟨hset, fun i => hpaired i (getLsbD_allOnes8 i)⟩
  · have hword : RunsPlan (setcdirPlan s.profile bits mask) s := ⟨_, hdec, fun u hu => by rw [← hu]; rfl⟩
    exact directions_paired_of_runUntilDone hword (setcdir_plans hpf bits mask) n hact huseq hscript hrun hdone

end Sys2Proof.Machine
end

section
/-! # The masked update, as a statement about every register bit -/

namespace Sys2Proof.Machine

/-- A masked update of an existing 8-bit port, seen bit by bit (R52, R126); the 32-bit one is
`Memory.bit_modify32_masked`. -/
theorem Memory.bit_modify8_masked {ps : List (Nat × Regs 8)} {p : Nat} (hp : p ∈ ps.map (·.1)) (r r' : Reg) (q b : Nat)
    (pm pv : Byte) :
    ((Memory.bytes ps).modify8 p fun g => g.masked r pm pv).bit r' q b =
      if r' = r ∧ q = p ∧ pm.getLsbD b = true then pv.getLsbD b else (Memory.bytes ps).bit r' q b := by
  split
  · rename_i hsel
    obtain ⟨rfl, rfl, hpm⟩ := hsel
    rw [Memory.bit_modify8 hp, if_pos rfl, Regs.get_masked, if_pos rfl, getLsbD_merge, if_pos hpm]
  · rename_i hmiss
    exact Memory.bit_modify8_masked_miss _ pv hmiss

/-- Settles O27: registers that fit the build hold the named port, on WIDE as the only one. -/
theorem maskedWriteChangesOnlyMaskedBits : Obligations.MaskedWriteChangesOnlyMaskedBits := by
  refine ⟨fun s r r' p q b pm pv hbuild hk hp => ?_, fun s r r' q b m v hbuild hk => ?_⟩
  · obtain ⟨-, hfits⟩ := s.buildOk_iff.mp hbuild
    obtain ⟨ps, hmem, hports⟩ := Memory.fits_narrow hfits hk
    rw [maskedWrite_mem, hmem, Memory.bit_modify8_masked (hports ▸ hp)]
  · obtain ⟨-, hfits⟩ := s.buildOk_iff.mp hbuild
    obtain ⟨g, hmem⟩ := Memory.fits_wide hfits hk
    rw [wideMasked_mem, hmem, Memory.bit_modify32_masked]

end Sys2Proof.Machine
end

section
/-! # Decoding and encoding

`decode_cases` says once what decoding a word can give, and `Instr.Fills` what a command asks of the word's fields;
the statements about the encoding are derived from the two. -/

namespace Sys2Proof

/-- The fields of `w` that the format of `i` uses are those of `i`; an unused field may hold anything (R81, R87). -/
def Instr.Fills (i : Instr) (w : CommandWord) : Prop :=
  opField w = i.opcode ∧ (i.format ≠ .n → aField w = i.operandA) ∧ (i.format = .ab → bField w = i.operandB)

/-- The opcodes 0x09 to 0xFF are no command's (R83, R85). -/
theorem Instr.opcode_lt (i : Instr) : i.opcode.toNat < 9 := by
  cases i <;> simp [Instr.opcode]

/-- Everything decoding a word can give: the command that fills it, or a refusal that names a reserved opcode. -/
theorem decode_cases (w : CommandWord) :
    (∃ i : Instr, decode w = .ok i ∧ i.Fills w) ∨
      (9 ≤ (opField w).toNat ∧ decode w = .error (.reservedOpcode (opField w))) := by
  unfold decode decodeFields
  split
  case h_10 => exact .inr ⟨by simp only [imp_false] at *; omega, rfl⟩
  all_goals
    rename_i hop
    exact .inl ⟨_, rfl, BitVec.eq_of_toNat_eq hop, by simp [Instr.format, Instr.operandA],
      by simp [Instr.format, Instr.operandB]⟩

/-- The opcode and the operands of a command decode to it, whatever stands in a field its format does not use. -/
theorem decodeFields_opcode (i : Instr) {a b : Byte} (ha : i.format ≠ .n → a = i.operandA)
    (hb : i.format = .ab → b = i.operandB) : decodeFields i.opcode a b = .ok i := by
  cases i with
  | prepin => rfl
  | rddata => rfl
  | drvdata value => rw [ha nofun]; rfl
  | setcst bits mask => rw [ha nofun, hb rfl]; rfl
  | setcdir bits mask => rw [ha nofun, hb rfl]; rfl
  | qpin index => rw [ha nofun]; rfl
  | rev8 byte => rw [ha nofun]; rfl
  | xrd id => rw [ha nofun]; rfl
  | xwr id byte => rw [ha nofun, hb rfl]; rfl

/-- A word decodes to the commands that fill it and to no other. -/
theorem decode_eq_ok_iff (w : CommandWord) (i : Instr) : decode w = .ok i ↔ i.Fills w := by
  constructor
  · intro h
    rcases decode_cases w with ⟨j, hj, hfills⟩ | ⟨-, herror⟩
    · have hij : j = i := Except.ok.inj (hj.symm.trans h)
      exact hij ▸ hfills
    · rw [herror] at h
      cases h
  · rintro ⟨hop, ha, hb⟩
    rw [decode, hop]
    exact decodeFields_opcode i ha hb

/-- The word of a command holds its opcode and operands (R80). -/
theorem Instr.fills_encode (i : Instr) : i.Fills (encode i) := by
  obtain ⟨hop, ha, hb⟩ := Laws.FieldPlacement.fields_packWord i.opcode i.operandA i.operandB
  exact ⟨hop, fun _ => ha, fun _ => hb⟩

theorem decode_encode (i : Instr) : decode (encode i) = .ok i := (decode_eq_ok_iff _ i).mpr i.fills_encode

/-- A word with a reserved opcode is refused, and its opcode is named. -/
theorem decode_reserved {w : CommandWord} (h : 9 ≤ (opField w).toNat) :
    decode w = .error (.reservedOpcode (opField w)) := by
  rcases decode_cases w with ⟨i, -, hop, -⟩ | ⟨-, herror⟩
  · have hlt := i.opcode_lt
    rw [hop] at h
    omega
  · exact herror

/-- Every other word decodes to a command. -/
theorem exists_decode_of_lt {w : CommandWord} (h : (opField w).toNat < 9) : ∃ i : Instr, decode w = .ok i := by
  rcases decode_cases w with ⟨i, hi, -⟩ | ⟨hge, -⟩
  · exact ⟨i, hi⟩
  · omega

/-- Settles O2. -/
theorem decodeAndEncodeAgree : Obligations.DecodeAndEncodeAgree :=
  fun i => ⟨decode_encode i, fun w => decode_eq_ok_iff w i⟩

/-- Settles O1: each of the words is the encoding of its command. -/
theorem specWordsDecodeToTheirCommands : Obligations.SpecWordsDecodeToTheirCommands :=
  ⟨decode_encode .prepin, decode_encode .rddata, decode_encode (.drvdata 0x41#8),
    decode_encode (.setcst 0x80#8 0x80#8), decode_encode (.setcdir 0xB9#8 0xFF#8), decode_encode (.qpin 0x03#8),
    decode_encode (.rev8 0xA7#8), decode_encode (.xrd 0x0D#8), decode_encode (.xwr 0x0D#8 0x3C#8)⟩

/-- Settles O3. -/
theorem reservedOpcodesAreExactlyNineAndAbove : Obligations.ReservedOpcodesAreExactlyNineAndAbove := by
  refine fun w => ⟨⟨fun herror => ?_, decode_reserved⟩, exists_decode_of_lt⟩
  by_contra hlt
  obtain ⟨i, hi⟩ := exists_decode_of_lt (Nat.lt_of_not_le hlt)
  rw [hi] at herror
  cases herror

end Sys2Proof
end

section
/-! # Words at the machine's step, and commands that do nothing -/

namespace Sys2Proof.Machine

/-! ## MAIN's word -/

section
variable {s : State} (hs : s.buildOk = true) (hreset : s.nextEnv.env.reset = false)
  (hhnd : s.inputs.hndMoves = false)
include hs hreset hhnd

/-- MAIN takes the caller's next word, decodable or not. -/
theorem step_next_word {w : CommandWord} {rest : List CommandWord} (hidle : s.active = false)
    (hcmds : s.cmds = w :: rest) : step s = execWord w (s.inputs.accept w rest) := by
  rw [step_eq_mainStep hs hreset hhnd, mainStep, if_neg (by simp [hidle]), State.inputs_cmds, hcmds]

/-- MAIN goes on with the latched word, decodable or not. -/
theorem step_latched_word (hactive : s.active = true) :
    step s = execWord (packWord s.op s.a s.b) s.inputs := by
  rw [step_eq_mainStep hs hreset hhnd, mainStep, if_pos (by simp [hactive])]
  simp

end

/-! ## A word placed for the next step -/

/-- A placed word of 24 bits stands at the head of the queue as it is. -/
theorem State.withFetchWord_cmds (s : State) (w : CommandWord) : (s.withFetchWord 24 w.toNat).cmds = w :: s.cmds := by
  have hword : BitVec.ofNat 24 (w.toNat % 2 ^ 24) = w := by
    rw [Nat.mod_eq_of_lt w.isLt, BitVec.ofNat_toNat, BitVec.setWidth_eq]
  simp only [State.withFetchWord, hword]

/-- The granted inputs bring no notification and no foreign change. -/
theorem State.withFetchWord_inputs (s : State) (nbits w : Nat) :
    (s.withFetchWord nbits w).inputs =
      { s.withFetchWord nbits w with env := s.env.granting, script := s.script } := rfl

/-- Settles O5: the placed word is the caller's next one in a step that the environment grants to MAIN. -/
theorem placedWordRunsNext : Obligations.PlacedWordRunsNext := by
  intro s w i hs hdec
  have hhnd : (s.withFetchWord 24 w.toNat).inputs.hndMoves = false := by
    simp [State.withFetchWord_inputs, State.hndMoves, Env.granting]
  rw [step_next_word (s := s.withFetchWord 24 w.toNat) hs rfl hhnd rfl (s.withFetchWord_cmds w), execWord_ok _ hdec]
  rfl

/-! ## Reserved words -/

/-- Settles O6. -/
theorem reservedWordsCompleteWithZero : Obligations.ReservedWordsCompleteWithZero := by
  have hexec (s : State) (w : CommandWord) (h : 9 ≤ (opField w).toNat) : execWord w s = .next (s.complete 0x00#8) :=
    execWord_reserved s (decode_reserved h)
  refine ⟨hexec, fun s hs hreset hhnd => ⟨fun w rest hidle hcmds hop => ?_, fun hactive hop => ?_⟩⟩
  · exact (step_next_word hs hreset hhnd hidle hcmds).trans (hexec _ w hop)
  · obtain ⟨hfield, -, -⟩ := Laws.FieldPlacement.fields_packWord s.op s.a s.b
    exact (step_latched_word hs hreset hhnd hactive).trans (hexec _ _ (hfield.symm ▸ hop))

/-- Without a serial controller XRD is a reserved opcode (R86). -/
theorem execXrd_off_remote {s : State} (hk : s.profile.kind ≠ .remote) (id : Byte) :
    execXrd id s = .next (s.complete 0x00#8) := by
  unfold execXrd
  split
  · exact absurd ‹_› hk
  · rfl

/-- Without a serial controller XWR is a reserved opcode (R86). -/
theorem execXwr_off_remote {s : State} (hk : s.profile.kind ≠ .remote) (id v : Byte) :
    execXwr id v s = .next (s.complete 0x00#8) := by
  unfold execXwr
  split
  · exact absurd ‹_› hk
  · rfl

/-- Settles O7. -/
theorem remoteCommandsAreReservedOffRemote : Obligations.RemoteCommandsAreReservedOffRemote :=
  fun _ id v hk => ⟨execXrd_off_remote hk id, execXwr_off_remote hk id v⟩

/-! ## Plans without an access -/

/-- A zero mask selects a line on no port (R124). -/
theorem aff_zero (pf : Profile) (map : LineMap) : aff pf map 0x00#8 = [] := by
  simp [aff, touches]

/-- The port mask of a zero mask is zero (R121). -/
theorem smask_zero {w : Nat} (map : LineMap) (p : Nat) : (smask map 0x00#8 p : BitVec w) = 0#w := by
  have hclear (b : Nat) : setBit 0#w b false = 0#w := by simp [setBit]
  simp [smask, spread, positions, hclear]

theorem setcstPlan_zero (pf : Profile) (bits : Byte) : setcstPlan pf bits 0x00#8 = Plan.nothing := by
  simp [setcstPlan, setcstAccesses, aff_zero, Plan.nothing]

theorem setcdirPlan_zero (pf : Profile) (bits : Byte) : setcdirPlan pf bits 0x00#8 = Plan.nothing := by
  simp [setcdirPlan, setcdirAccesses, setcdirWide, aff_zero, smask_zero, Plan.nothing]

theorem qpinPlan_of_le (pf : Profile) {index : Byte} (h : 8 ≤ index.toNat) : qpinPlan pf index = Plan.nothing :=
  dif_neg (Nat.not_lt.mpr h)

/-- Settles O35: the plan of each of the three is the one without an access. -/
theorem legalEncodingsThatDoNothing : Obligations.LegalEncodingsThatDoNothing := by
  intro s bits index
  have hnext {c : Plan} (hc : c = Plan.nothing) :
      (.next (c.run s) : Host.Outcome State Fault Refusal) = .next (s.complete 0x00#8) := by
    rw [hc, Plan.run_nothing]
  exact ⟨hnext (setcstPlan_zero _ bits), hnext (setcdirPlan_zero _ bits), fun h => hnext (qpinPlan_of_le _ h)⟩

/-! ## The pseudo-instructions of the assembler -/

/-- Settles O60: each pseudo-instruction reads its one mask operand and builds the expansion from it. -/
theorem pseudoInstructionsExpand : Obligations.PseudoInstructionsExpand := by
  refine ⟨rfl, fun x mask hmask => ⟨?_, ?_, ?_, ?_⟩⟩ <;> simp only [Asm.command, hmask, Option.map_some]

end Sys2Proof.Machine
end

section
/-! # The bit-permutation unit

Each stage of R102 moves bit `i` to `i ^^^ 4`, `i ^^^ 2` or `i ^^^ 1`. Their mask forms, that they commute and what
they do together follow from that. -/

namespace Sys2Proof.Machine

/-! ## The stages of the reversal -/

theorem getLsbD_nibbleSwap (x : Byte) {i : Nat} (hi : i < 8) : (nibbleSwap x).getLsbD i = x.getLsbD (i ^^^ 4) := by
  simp only [nibbleSwap, BitVec.getLsbD_append, BitVec.getLsbD_extractLsb']
  interval_cases i <;> simp

theorem getLsbD_pairSwap (x : Byte) {i : Nat} (hi : i < 8) : (pairSwap x).getLsbD i = x.getLsbD (i ^^^ 2) := by
  simp only [pairSwap, BitVec.getLsbD_append, BitVec.getLsbD_extractLsb']
  interval_cases i <;> simp

theorem getLsbD_bitSwap (x : Byte) {i : Nat} (hi : i < 8) : (bitSwap x).getLsbD i = x.getLsbD (i ^^^ 1) := by
  simp only [bitSwap, BitVec.getLsbD_append, BitVec.getLsbD_extractLsb']
  interval_cases i <;> simp

/-- A bit exchange in its mask form: exactly one of the two masks brings bit `i`, and from bit `i ^^^ k`. -/
theorem eq_maskForm_of_getLsbD_xor {x y upper lower : Byte} {k : Nat}
    (hy : ∀ i < 8, y.getLsbD i = x.getLsbD (i ^^^ k))
    (hmasks : ∀ i < 8,
      (upper.getLsbD (i + k) = true ∧ i + k = i ^^^ k ∧ (i < k ∨ lower.getLsbD (i - k) = false)) ∨
      (upper.getLsbD (i + k) = false ∧ k ≤ i ∧ i - k = i ^^^ k ∧ lower.getLsbD (i - k) = true)) :
    y = ((x &&& upper) >>> k) ||| ((x &&& lower) <<< k) := by
  refine BitVec.eq_of_getLsbD_eq fun i hi => ?_
  rw [hy i hi, BitVec.getLsbD_or, BitVec.getLsbD_ushiftRight, BitVec.getLsbD_shiftLeft, BitVec.getLsbD_and,
    BitVec.getLsbD_and, Nat.add_comm k i]
  rcases hmasks i hi with ⟨hupper, hfrom, hbelow | hlower⟩ | ⟨hupper, hki, hfrom, hlower⟩
  · simp [← hfrom, hupper, hbelow]
  · simp [← hfrom, hupper, hlower]
  · simp [← hfrom, hupper, hlower, hi, Nat.not_lt.mpr hki]

/-- Two bit exchanges commute, as `^^^` does. -/
theorem comm_of_getLsbD_xor {f g : Byte → Byte} {j k : Nat} (hj : j < 8) (hk : k < 8)
    (hf : ∀ (x : Byte) {i : Nat}, i < 8 → (f x).getLsbD i = x.getLsbD (i ^^^ j))
    (hg : ∀ (x : Byte) {i : Nat}, i < 8 → (g x).getLsbD i = x.getLsbD (i ^^^ k)) (x : Byte) : f (g x) = g (f x) := by
  refine BitVec.eq_of_getLsbD_eq fun i hi => ?_
  have hlt {m : Nat} (hm : m < 8) : i ^^^ m < 8 := Nat.xor_lt_two_pow (n := 3) hi hm
  rw [hf _ hi, hg _ (hlt hj), hg _ hi, hf _ (hlt hk), Nat.xor_right_comm]

/-! ## The reversal -/

/-- R101: the three exchanges together take bit `i` from bit `i ^^^ 7`, which is bit `7 - i`. -/
theorem getLsbD_rev8 (x : Byte) {i : Nat} (hi : i < 8) : (rev8 x).getLsbD i = x.getLsbD (7 - i) := by
  have hxor : ∀ i < 8, i ^^^ 1 < 8 ∧ i ^^^ 1 ^^^ 2 < 8 ∧ i ^^^ 1 ^^^ 2 ^^^ 4 = 7 - i := by decide
  obtain ⟨hbit, hpair, hall⟩ := hxor i hi
  rw [rev8, getLsbD_bitSwap _ hi, getLsbD_pairSwap _ hbit, getLsbD_nibbleSwap _ hpair, hall]

theorem rev8_rev8 (x : Byte) : rev8 (rev8 x) = x := by
  refine BitVec.eq_of_getLsbD_eq fun i hi => ?_
  rw [getLsbD_rev8 _ hi, getLsbD_rev8 _ (by omega), Nat.sub_sub_self (by omega)]

/-- Settles O15. -/
theorem rev8ReversesTheBits : Obligations.Rev8ReversesTheBits :=
  ⟨fun x _ hi => getLsbD_rev8 x hi, rev8_rev8, Function.Involutive.bijective rev8_rev8⟩

/-- Settles O16. -/
theorem rev8StagesHaveTheirMaskForm : Obligations.Rev8StagesHaveTheirMaskForm :=
  ⟨fun _ => rfl,
    fun x => eq_maskForm_of_getLsbD_xor (fun _ => getLsbD_nibbleSwap x) (by decide),
    fun x => eq_maskForm_of_getLsbD_xor (fun _ => getLsbD_pairSwap x) (by decide),
    fun x => eq_maskForm_of_getLsbD_xor (fun _ => getLsbD_bitSwap x) (by decide),
    fun x => ⟨comm_of_getLsbD_xor (by decide) (by decide) getLsbD_nibbleSwap getLsbD_pairSwap x,
      comm_of_getLsbD_xor (by decide) (by decide) getLsbD_nibbleSwap getLsbD_bitSwap x,
      comm_of_getLsbD_xor (by decide) (by decide) getLsbD_pairSwap getLsbD_bitSwap x⟩,
    fun x _ hi => getLsbD_rev8 x hi⟩

/-! ## The bytes the reversal fixes -/

/-- The palindrome with `low` as its bits 0 to 3. -/
def palindrome (low : BitVec 4) : Byte := rev8 (low.setWidth 8) ||| low.setWidth 8

theorem getLsbD_palindrome (low : BitVec 4) {i : Nat} (hi : i < 8) :
    (palindrome low).getLsbD i = (low.getLsbD (7 - i) || low.getLsbD i) := by
  have hmirror : 7 - i < 8 := by omega
  simp only [palindrome, BitVec.getLsbD_or, getLsbD_rev8 _ hi, BitVec.getLsbD_setWidth, decide_eq_true hi,
    decide_eq_true hmirror, Bool.true_and]

/-- A byte equal to its reversal is known from its low nibble. -/
theorem eq_palindrome_of_rev8_eq {x : Byte} (h : rev8 x = x) : x = palindrome (x.setWidth 4) := by
  refine BitVec.eq_of_getLsbD_eq fun i hi => ?_
  have hmirror : x.getLsbD i = x.getLsbD (7 - i) := by rw [← getLsbD_rev8 x hi, h]
  rw [getLsbD_palindrome _ hi, BitVec.getLsbD_setWidth, BitVec.getLsbD_setWidth]
  by_cases hlow : i < 4
  · have hhigh : ¬7 - i < 4 := by omega
    simp [hlow, hhigh]
  · have hhigh : 7 - i < 4 := by omega
    simp [hlow, hhigh, hmirror]

/-! ## The command REV8 -/

theorem exec_rev8 (x : Byte) (s : State) : exec (.rev8 x) s = .next (s.complete (rev8 x)) := rfl

/-- Settles O19: the 16 low nibbles give the 16 fixed bytes. -/
theorem rev8CommandReturnsTheReversedByte : Obligations.Rev8CommandReturnsTheReversedByte := by
  refine ⟨fun s x => exec_rev8 x s, fun x => ⟨fun h => ?_, fun h => ?_⟩, decode_encode (.rev8 0xA7#8), by decide⟩
  · rw [eq_palindrome_of_rev8_eq h]
    generalize x.setWidth 4 = low
    revert low
    decide
  · fin_cases h <;> rfl

/-! ## Rotates -/

theorem getLsbD_rotl8 (x : Byte) (n : Nat) {j : Nat} (hj : j < 8) :
    (rotl8 x n).getLsbD j = x.getLsbD ((j + 8 - n % 8) % 8) := by
  rw [rotl8, getLsbD_ofBits, decide_eq_true hj, Bool.true_and]

theorem getLsbD_rotr8 (x : Byte) (n : Nat) {i : Nat} (hi : i < 8) :
    (rotr8 x n).getLsbD i = x.getLsbD ((i + n) % 8) := by
  rw [rotr8, getLsbD_ofBits, decide_eq_true hi, Bool.true_and]

/-- The left rotate as R105 writes it: by the place a bit goes to. -/
theorem getLsbD_rotl8_add_mod (x : Byte) (n : Nat) {i : Nat} (hi : i < 8) :
    (rotl8 x n).getLsbD ((i + n) % 8) = x.getLsbD i := by
  have hback : ((i + n) % 8 + 8 - n % 8) % 8 = i := by omega
  rw [getLsbD_rotl8 x n (Nat.mod_lt _ (by decide)), hback]

theorem rotl8_of_mod_eq_zero (x : Byte) {n : Nat} (hn : n % 8 = 0) : rotl8 x n = x := by
  refine BitVec.eq_of_getLsbD_eq fun i hi => ?_
  have hstay : (i + 8 - n % 8) % 8 = i := by omega
  rw [getLsbD_rotl8 x n hi, hstay]

theorem rotr8_eq_rotl8 (x : Byte) (n : Nat) : rotr8 x n = rotl8 x ((8 - n % 8) % 8) := by
  refine BitVec.eq_of_getLsbD_eq fun i hi => ?_
  have hsame : (i + n) % 8 = (i + 8 - (8 - n % 8) % 8 % 8) % 8 := by omega
  rw [getLsbD_rotr8 x n hi, getLsbD_rotl8 x _ hi, hsame]

/-- Settles O17. -/
theorem rotatesWrapModuloEight : Obligations.RotatesWrapModuloEight :=
  ⟨fun x n _ hi => ⟨getLsbD_rotl8_add_mod x n hi, getLsbD_rotr8 x n hi⟩,
    fun x => ⟨rotl8_of_mod_eq_zero x rfl, rotl8_of_mod_eq_zero x rfl⟩, rotr8_eq_rotl8, by decide⟩

/-! ## Shifts -/

theorem getLsbD_shl {w : Nat} (x : BitVec w) (n : Nat) {b : Nat} (hb : b < w) :
    (shl x n).getLsbD b = (decide (n ≤ b) && x.getLsbD (b - n)) := by
  simp only [shl, BitVec.getLsbD_shiftLeft, decide_eq_true hb, Bool.true_and, ← decide_not, Nat.not_lt]

theorem getLsbD_shr {w : Nat} (x : BitVec w) (n b : Nat) : (shr x n).getLsbD b = x.getLsbD (b + n) := by
  rw [shr, BitVec.getLsbD_ushiftRight, Nat.add_comm]

/-- Settles O18. -/
theorem shiftsFillWithZero : Obligations.ShiftsFillWithZero :=
  ⟨fun _ x n b hb => ⟨getLsbD_shl x n hb, getLsbD_shr x n b⟩,
    fun _ _ _ hn => ⟨BitVec.shiftLeft_eq_zero hn, BitVec.ushiftRight_eq_zero hn⟩, by decide⟩

end Sys2Proof.Machine
end

section
/-! # The masked register translator

A port value that `spread` builds is known from its bits: those of the lines, and 0 elsewhere. What `scatter`, `smask`
and `sdir` do (R120 to R122), the laws of the fragments (R125) and the arithmetic of a single profile (R133, R137)
follow from that. -/

namespace Sys2Proof.Machine

/-! ## The two maps of a well-formed profile -/

section
variable {pf : Profile} {map : LineMap} (hpf : pf.wf = true) (hmap : map = pf.dmap ∨ map = pf.cmap)
include hpf hmap

/-- R23(a), (c) of one line, whichever map it is of. -/
theorem wf_map_line (i : Fin 8) :
    map[i].port ∈ pf.ports ∧ map[i].bit < Config.width pf.kind ∧ map[i].pol = true := by
  rcases hmap with rfl | rfl
  · exact wf_line hpf (mem_lines_dmap pf i)
  · exact wf_line hpf (mem_lines_cmap pf i)

theorem wf_map_pol (i : Fin 8) : map[i].pol = true := (wf_map_line hpf hmap i).2.2

theorem wellPlaced_of_wf {w : Nat} (hw : Config.width pf.kind ≤ w) : WellPlaced map w := by
  rcases hmap with rfl | rfl
  · exact wellPlaced_dmap hpf hw
  · exact wellPlaced_cmap hpf hw

end

/-- A bit the full mask does not select carries no line. -/
theorem no_line_of_not_selected {map : LineMap} {p b : Nat} (h : ¬selected map 0xFF#8 p b) (i : Fin 8)
    (hp : map[i].port = p) : map[i].bit ≠ b :=
  fun hb => h ⟨i, getLsbD_allOnes8 i, hp, hb⟩

/-! ## Port values -/

/-- The logical position whose line is on bit `b` of port `p`, if there is one. -/
def lineAt (map : LineMap) (p b : Nat) : Option (Fin 8) :=
  positions.find? fun i => map[i].port == p && map[i].bit == b

namespace WellPlaced

variable {map : LineMap} {w : Nat} (hmap : WellPlaced map w)
include hmap

/-- The bit of a line in a scattered byte (R120). -/
theorem getLsbD_scatter (v : Byte) (i : Fin 8) :
    (scatter map v map[i].port : BitVec w).getLsbD map[i].bit = (v.getLsbD i.val ^^ map[i].pol) :=
  getLsbD_spread_line map i _ (hmap.bit_lt i) (hmap.injective i)

/-- What a spread value equals: anything with the same bits on the lines of the port, and 0 elsewhere. -/
theorem spread_eq {p : Nat} {f : Fin 8 → Line → Bool} {y : BitVec w}
    (hline : ∀ i : Fin 8, map[i].port = p → y.getLsbD map[i].bit = f i map[i])
    (hother : ∀ b < w, (∀ i : Fin 8, map[i].port = p → map[i].bit ≠ b) → y.getLsbD b = false) :
    spread map p f = y := by
  refine BitVec.eq_of_getLsbD_eq fun b hb => ?_
  by_cases h : selected map 0xFF#8 p b
  · obtain ⟨i, -, rfl, rfl⟩ := h
    rw [getLsbD_spread_line map i f hb (hmap.injective i), hline i rfl]
  · have hnone := no_line_of_not_selected h
    rw [getLsbD_spread_other map p b f hnone, hother b hb hnone]

/-- The same, for a map given as a literal: bit by bit, from the line on each. -/
theorem spread_eq_lineAt {p : Nat} {f : Fin 8 → Line → Bool} {y : BitVec w}
    (h : ∀ b < w, y.getLsbD b = (lineAt map p b).any fun i => f i map[i]) : spread map p f = y := by
  refine BitVec.eq_of_getLsbD_eq fun b hb => ?_
  rw [h b hb]
  cases hline : lineAt map p b with
  | none =>
    refine getLsbD_spread_other map p b f fun i hp hib => ?_
    refine List.find?_eq_none.mp hline i (mem_positions i) ?_
    simp only [hp, hib, beq_self_eq_true, Bool.and_self]
  | some i =>
    have hi := List.find?_some hline
    simp only [Bool.and_eq_true, beq_iff_eq] at hi
    obtain ⟨rfl, rfl⟩ := hi
    exact getLsbD_spread_line map i f hb (hmap.injective i)

/-- A port mask is not zero exactly when the logical mask selects a line of the port (R124). -/
theorem smask_ne_zero_iff (m : Byte) (p : Nat) : (smask map m p : BitVec w) ≠ 0#w ↔ portSelected map m p := by
  constructor
  · intro hne
    by_contra hnone
    refine hne (hmap.spread_eq (fun i hp => ?_) fun b _ _ => BitVec.getLsbD_zero)
    rw [BitVec.getLsbD_zero]
    exact (Bool.eq_false_of_not_eq_true fun hi => hnone ⟨i, hi, hp⟩).symm
  · rintro ⟨i, hi, hp⟩ hzero
    have hbit := (hmap.getLsbD_smask_iff m p map[i].bit).mpr ⟨i, hi, hp, rfl⟩
    rw [hzero, BitVec.getLsbD_zero] at hbit
    cases hbit

/-- R125(b): a scattered byte stays within the mask. -/
theorem scatter_and_not_smask (v : Byte) (p : Nat) :
    scatter map v p &&& ~~~(smask map 0xFF#8 p : BitVec w) = 0#w := by
  refine BitVec.eq_of_getLsbD_eq fun b _ => ?_
  rw [BitVec.getLsbD_zero, BitVec.getLsbD_and, BitVec.getLsbD_not]
  by_cases h : selected map 0xFF#8 p b
  · simp [(hmap.getLsbD_smask_iff _ p b).mpr h]
  · rw [scatter, getLsbD_spread_other map p b _ (no_line_of_not_selected h), Bool.false_and]

/-- R125(c): the mask of a union is the union of the masks. -/
theorem smask_or (m n : Byte) (p : Nat) : (smask map (m ||| n) p : BitVec w) = smask map m p ||| smask map n p := by
  refine hmap.spread_eq (fun i hp => ?_) fun b _ h => ?_
  · subst hp
    simp only [BitVec.getLsbD_or, hmap.getLsbD_smask]
  · simp only [BitVec.getLsbD_or, smask, getLsbD_spread_other map p b _ h, Bool.or_false]

/-- R125(d): scattering the complement complements the bits of the lines. -/
theorem scatter_not (v : Byte) (p : Nat) :
    (scatter map (~~~v) p : BitVec w) = ~~~(scatter map v p : BitVec w) &&& smask map 0xFF#8 p := by
  refine hmap.spread_eq (fun i hp => ?_) fun b _ h => ?_
  · subst hp
    simp only [BitVec.getLsbD_and, BitVec.getLsbD_not, hmap.getLsbD_scatter, hmap.getLsbD_smask, getLsbD_allOnes8,
      hmap.bit_lt, i.isLt, decide_true, Bool.true_and, Bool.and_true, Bool.not_xor]
  · rw [BitVec.getLsbD_and, smask, getLsbD_spread_other map p b _ h, Bool.and_false]

end WellPlaced

/-- R125(b): no bit carries a data line and a control line. -/
theorem dataMask_and_controlMask {pf : Profile} {w : Nat} (hpf : pf.wf = true) (hw : Config.width pf.kind ≤ w)
    (p : Nat) : (dataMask pf p : BitVec w) &&& controlMask pf p = 0#w := by
  refine BitVec.eq_of_getLsbD_eq fun b _ => ?_
  rw [BitVec.getLsbD_zero, BitVec.getLsbD_and, Bool.eq_false_iff]
  intro hboth
  obtain ⟨hdata, hcontrol⟩ := (Bool.and_eq_true _ _).mp hboth
  obtain ⟨i, -, hip, hib⟩ := ((wellPlaced_dmap hpf hw).getLsbD_smask_iff _ p b).mp hdata
  obtain ⟨j, -, hjp, hjb⟩ := ((wellPlaced_cmap hpf hw).getLsbD_smask_iff _ p b).mp hcontrol
  exact wf_dmap_cmap_disjoint hpf i j (hip.trans hjp.symm) (hib.trans hjb.symm)

/-! ## The byte gathered from port values -/

/-- The loop of R123 sets each of the eight bits once. -/
theorem getLsbD_foldl_setBit_positions (g : Fin 8 → Bool) (i : Fin 8) :
    (positions.foldl (fun v j => setBit v j.val (g j)) 0x00#8).getLsbD i.val = g i := by
  simp only [positions, List.foldl_cons, List.foldl_nil, getLsbD_setBit]
  fin_cases i <;> simp

theorem getLsbD_gather {w : Nat} (map : LineMap) (x : Nat → BitVec w) (i : Fin 8) :
    (gather map x).getLsbD i.val = ((x map[i].port).getLsbD map[i].bit ^^ map[i].pol) :=
  getLsbD_foldl_setBit_positions _ i

/-- What a gathered byte equals: the byte with the logical levels of the lines as its bits (R123). -/
theorem gather_eq {w : Nat} {map : LineMap} {x : Nat → BitVec w} {v : Byte}
    (h : ∀ i : Fin 8, ((x map[i].port).getLsbD map[i].bit ^^ map[i].pol) = v.getLsbD i.val) : gather map x = v :=
  BitVec.eq_of_getLsbD_eq fun i hi => (getLsbD_gather map x ⟨i, hi⟩).trans (h ⟨i, hi⟩)

/-! ## The affected ports -/

theorem touches_iff (map : LineMap) (m : Byte) (p : Nat) : touches map m p = true ↔ portSelected map m p := by
  simp [touches, portSelected, mem_positions]

theorem mem_aff (pf : Profile) (map : LineMap) (m : Byte) (p : Nat) :
    p ∈ aff pf map m ↔ p ∈ pf.ports ∧ portSelected map m p := by
  rw [aff, List.mem_filter, touches_iff]

/-- A selected line makes its port an affected one. -/
theorem mem_aff_of_wf {pf : Profile} {map : LineMap} (hpf : pf.wf = true) (hmap : map = pf.dmap ∨ map = pf.cmap)
    (m : Byte) (p : Nat) : p ∈ aff pf map m ↔ portSelected map m p := by
  rw [mem_aff, and_iff_right_iff_imp]
  rintro ⟨i, -, rfl⟩
  exact (wf_map_line hpf hmap i).1

theorem aff_ascending {pf : Profile} (hpf : pf.wf = true) (map : LineMap) (m : Byte) :
    (aff pf map m).Pairwise (· < ·) := by
  obtain ⟨-, -, -, hasc, -, -⟩ := wf_checks hpf
  exact (of_decide_eq_true hasc).filter _

/-! ## The statements for every profile -/

/-- Settles O20. -/
theorem scatterPlacesTheComplement : Obligations.ScatterPlacesTheComplement := by
  intro pf map w hpf hmap hw v
  refine ⟨fun i => ?_, fun p b h => getLsbD_spread_other map p b _ (no_line_of_not_selected h)⟩
  rw [(wellPlaced_of_wf hpf hmap hw).getLsbD_scatter, wf_map_pol hpf hmap, Bool.xor_true]

/-- Settles O21. -/
theorem masksAndDirectionsKeepTheirSense : Obligations.MasksAndDirectionsKeepTheirSense := by
  intro pf map w hpf hmap hw m inv
  have hplaced := wellPlaced_of_wf hpf hmap hw
  exact ⟨fun i => ⟨hplaced.getLsbD_smask m i, hplaced.getLsbD_sdir inv m i⟩, fun p b h =>
    ⟨getLsbD_spread_other map p b _ (no_line_of_not_selected h),
      getLsbD_spread_other map p b _ (no_line_of_not_selected h)⟩⟩

/-- Settles O22. -/
theorem gatherReadsTheComplement : Obligations.GatherReadsTheComplement := by
  intro pf map w hpf hmap
  refine ⟨fun x i => ?_, fun x y h => gather_eq fun i => ?_⟩
  · rw [getLsbD_gather, wf_map_pol hpf hmap, Bool.xor_true]
  · rw [h, getLsbD_gather]

/-- Settles O23. -/
theorem affectedPortsHaveNonzeroMasks : Obligations.AffectedPortsHaveNonzeroMasks := by
  intro pf map w hpf hmap hw m
  refine ⟨fun p => ?_, mem_aff_of_wf hpf hmap m, aff_ascending hpf map m, aff_zero pf map⟩
  rw [mem_aff, (wellPlaced_of_wf hpf hmap hw).smask_ne_zero_iff]

/-- R125(a): a line's port is affected, and there the masked port value has the line's bit of the scattered byte. -/
theorem gather_of_masked_eq_scatter {pf : Profile} {map : LineMap} {w : Nat} (hpf : pf.wf = true)
    (hmap : map = pf.dmap ∨ map = pf.cmap) (hplaced : WellPlaced map w) {x : Nat → BitVec w} {v : Byte}
    (h : ∀ p ∈ aff pf map 0xFF#8, x p &&& smask map 0xFF#8 p = scatter map v p) : gather map x = v := by
  refine gather_eq fun i => ?_
  have hport := (mem_aff_of_wf hpf hmap 0xFF#8 map[i].port).mpr ⟨i, getLsbD_allOnes8 i, rfl⟩
  have hbit := congrArg (·.getLsbD map[i].bit) (h _ hport)
  simp only [BitVec.getLsbD_and, hplaced.getLsbD_smask, hplaced.getLsbD_scatter, getLsbD_allOnes8,
    Bool.and_true] at hbit
  rw [hbit, Bool.xor_assoc, Bool.xor_self, Bool.xor_false]

/-- Settles O24. -/
theorem fragmentsRoundTrip : Obligations.FragmentsRoundTrip := by
  intro pf map w hpf hmap hw
  have hplaced := wellPlaced_of_wf hpf hmap hw
  exact ⟨fun _ _ => gather_of_masked_eq_scatter hpf hmap hplaced, hplaced.scatter_and_not_smask,
    dataMask_and_controlMask hpf hw, hplaced.smask_or, hplaced.scatter_not⟩

/-! ## Contiguous WIDE maps -/

section
variable {map : LineMap} {off : Nat} (hoff : off + 7 < 32) (hmap : ∀ i : Fin 8, map[i] = ⟨0, off + i.val, true⟩)
include hoff hmap

theorem wellPlaced_contiguous : WellPlaced map 32 where
  bit_lt i := by rw [hmap i]; show off + i.val < 32; omega
  injective i j _ hbit := by
    rw [hmap i, hmap j] at hbit
    exact Fin.ext (Nat.add_left_cancel hbit)

/-- On a contiguous map a spread value is a byte shifted by the offset (R133). -/
theorem spread_contiguous {f : Fin 8 → Line → Bool} {y : Byte}
    (hy : ∀ i : Fin 8, y.getLsbD i.val = f i map[i]) : (spread map 0 f : Word32) = y.setWidth 32 <<< off := by
  refine (wellPlaced_contiguous hoff hmap).spread_eq (fun i _ => ?_) fun b hb hother => ?_
  · have hbit : map[i].bit = off + i.val := by rw [hmap i]
    have hlt : off + i.val < 32 := by omega
    rw [hbit, ← hy]
    simp [hlt]
  · have houtside : b < off ∨ 8 ≤ b - off := by
      by_contra hin
      exact hother ⟨b - off, by omega⟩ (by rw [hmap]) (by rw [hmap]; show off + (b - off) = b; omega)
    rcases houtside with hbelow | habove
    · simp [hbelow]
    · simp [BitVec.getLsbD_of_ge y _ habove]

end

/-- Settles O26. -/
theorem contiguousWideFragmentsAreShifts : Obligations.ContiguousWideFragmentsAreShifts := by
  intro map off hoff hmap v
  refine ⟨spread_contiguous hoff hmap fun i => ?_, spread_contiguous (y := 0xFF#8) hoff hmap fun _ => rfl⟩
  simp [hmap i]

/-! ## Fixture P2 -/

theorem fixtureP2_wf : Config.fixtureP2.wf = true := by decide

theorem wellPlaced_fixtureP2_dmap : WellPlaced Config.fixtureP2.dmap 8 := wellPlaced_dmap fixtureP2_wf (by decide)

theorem wellPlaced_fixtureP2_cmap : WellPlaced Config.fixtureP2.cmap 8 := wellPlaced_cmap fixtureP2_wf (by decide)

theorem getElem_rev8 (x : Byte) {i : Nat} (hi : i < 8) : (rev8 x)[i] = x[7 - i] := by
  rw [← BitVec.getLsbD_eq_getElem, getLsbD_rev8 x hi, BitVec.getLsbD_eq_getElem]

/-- R137, the way in. -/
theorem fixtureP2_gather (x : Nat → Byte) :
    gather Config.fixtureP2.dmap x = ~~~(rev8 (x 0 &&& 0xF0#8) ||| ((x 1 &&& 0x3C#8) <<< 2)) := by
  refine gather_eq fun i => ?_
  fin_cases i <;> simp [Config.fixtureP2, Config.line, getElem_rev8]

/-- Settles O25: per port, each bit of the expression is the bit of the one line there, or masked off. -/
theorem fixtureP2TableIsItsArithmetic : Obligations.FixtureP2TableIsItsArithmetic := by
  have hd := wellPlaced_fixtureP2_dmap
  have hc := wellPlaced_fixtureP2_cmap
  refine ⟨fun v => ⟨hd.spread_eq_lineAt fun b hb => ?_, hd.spread_eq_lineAt fun b hb => ?_⟩, fixtureP2_gather, fun m =>
    ⟨hc.spread_eq_lineAt fun b hb => ?_, hc.spread_eq_lineAt fun b hb => ?_, hc.spread_eq_lineAt fun b hb => ?_⟩,
    by decide⟩
  all_goals
    interval_cases b <;> simp [lineAt, positions, Config.fixtureP2, Config.line, getElem_rev8]

end Sys2Proof.Machine
end

section
/-! # The pins -/

namespace Sys2Proof.Machine

/-- Bits put on the lines one after another, then `SCK` back at 0: what is sampled is each bit once (R151). -/
theorem sampledBits_flatMap_bitWave (line : Pins → Bool) (vs : List (Bool × Bool)) (e : Pins) :
    sampledBits line (vs.flatMap bitWave ++ [e]) = vs.map fun v => line ⟨selPin true, true, v.1, v.2⟩ := by
  induction vs with
  | nil => rfl
  | cons v vs ih =>
    rw [List.flatMap_cons, List.append_assoc, sampledBits_bitWave, sampledBits_high _ _ _ rfl, ih, List.map_cons]

theorem map_fst_exchangeBits (xs : List (Byte × Byte)) :
    (exchangeBits xs).map (·.1) = xs.flatMap fun x => wireBits x.1 := by
  rw [exchangeBits, List.map_flatMap]
  exact List.flatMap_congr fun x _ => List.map_fst_zip (Nat.le_refl 8)

theorem map_snd_exchangeBits (xs : List (Byte × Byte)) :
    (exchangeBits xs).map (·.2) = xs.flatMap fun x => wireBits x.2 := by
  rw [exchangeBits, List.map_flatMap]
  exact List.flatMap_congr fun x _ => List.map_snd_zip (Nat.le_refl 8)

theorem sampledBits_sdo_exchangeWave (xs : List (Byte × Byte)) :
    sampledBits (·.sdo) (exchangeWave xs) = xs.flatMap fun x => wireBits x.1 :=
  (sampledBits_flatMap_bitWave ..).trans (map_fst_exchangeBits xs)

theorem sampledBits_sdi_exchangeWave (xs : List (Byte × Byte)) :
    sampledBits (·.sdi) (exchangeWave xs) = xs.flatMap fun x => wireBits x.2 :=
  (sampledBits_flatMap_bitWave ..).trans (map_snd_exchangeBits xs)

/-- The data lines differ between two levels of the pins only where `SCK` falls. -/
def Pins.ChangesOnFall (x y : Pins) : Prop := x.sdo ≠ y.sdo ∨ x.sdi ≠ y.sdi → x.sck = true ∧ y.sck = false

/-- A bit changes the data lines where `SCK` has just fallen, and leaves it high for the next one. -/
theorem isChain_flatMap_bitWave (vs : List (Bool × Bool)) {e : Pins} (he : e.sck = false) :
    (vs.flatMap bitWave ++ [e]).IsChain Pins.ChangesOnFall ∧
      ∀ x ∈ (vs.flatMap bitWave ++ [e]).head?, x.sck = false := by
  induction vs with
  | nil => simpa using he
  | cons v vs ih =>
    obtain ⟨hchain, hhead⟩ := ih
    have hfall : ∀ y ∈ (vs.flatMap bitWave ++ [e]).head?, Pins.ChangesOnFall ⟨selPin true, true, v.1, v.2⟩ y :=
      fun y hy _ => ⟨rfl, hhead y hy⟩
    have hrise : Pins.ChangesOnFall ⟨selPin true, false, v.1, v.2⟩ ⟨selPin true, true, v.1, v.2⟩ := by
      simp [Pins.ChangesOnFall]
    simpa [bitWave] using And.intro hrise (List.isChain_cons.mpr ⟨hfall, hchain⟩)

/-- `SEL` is at physical 0 while a bit is on the lines. -/
theorem sel_of_mem_bitWave {v : Bool × Bool} {x : Pins} (h : x ∈ bitWave v) : x.sel = false := by
  simp only [bitWave, List.mem_cons, List.not_mem_nil, or_false] at h
  rcases h with rfl | rfl <;> rfl

/-- The bits of a byte shifted in most significant first are the byte. -/
theorem foldl_shiftIn_wireBits (x y : Byte) : (wireBits x).foldl shiftIn y = x := by
  refine BitVec.eq_of_getLsbD_eq fun i hi => ?_
  simp only [wireBits, List.map_cons, List.map_nil, List.foldl_cons, List.foldl_nil, shiftIn, BitVec.getLsbD_append,
    BitVec.getLsbD_extractLsb']
  interval_cases i <;> simp

/-- Settles O59. -/
theorem waveformCarriesTheFrame : Obligations.WaveformCarriesTheFrame := by
  refine ⟨fun xs => ⟨sampledBits_sdo_exchangeWave xs, sampledBits_sdi_exchangeWave xs, fun k x y hx hy => ?_,
    fun x hx => ?_, fun x hx => ?_⟩, fun q s => ⟨?_, ?_⟩⟩
  · obtain ⟨_, rfl⟩ := List.getElem?_eq_some_iff.mp hx
    obtain ⟨hk, rfl⟩ := List.getElem?_eq_some_iff.mp hy
    obtain ⟨hchain, -⟩ := isChain_flatMap_bitWave (exchangeBits xs)
      (e := ⟨selPin false, false, ((exchangeBits xs).getLastD (false, false)).1,
        ((exchangeBits xs).getLastD (false, false)).2⟩) rfl
    exact List.isChain_iff_getElem.mp hchain k hk
  · rw [exchangeWave, List.dropLast_concat] at hx
    obtain ⟨v, -, hv⟩ := List.mem_flatMap.mp hx
    exact sel_of_mem_bitWave hv
  · rw [exchangeWave, List.getLast?_concat, Option.some.injEq] at hx
    exact hx ▸ ⟨rfl, rfl⟩
  · rw [Request.wave, sampledBits_sdo_exchangeWave]
    cases hrw : q.rw <;> simp [Request.frame, Request.receivedBytes, hrw]
  · have hreceived : sampledBits (·.sdi) (q.wave s) = (q.receivedBytes s).flatMap wireBits := by
      rw [Request.wave, sampledBits_sdi_exchangeWave]
      cases hrw : q.rw <;> simp [Request.frame, Request.receivedBytes, hrw]
    rw [hreceived]
    exact foldl_shiftIn_wireBits ..

end Sys2Proof.Machine
end

section
/-! # Transactions and the handler -/

namespace Sys2Proof.Machine

/-- A write sends control byte, identifier and data byte (R89). -/
theorem Request.frame_write {q : Request} (h : q.rw = .write) (pf : Profile) :
    q.frame pf = [pf.ctrlWr, q.id, q.wdata] := by
  simp only [frame, h]

/-- A read sends control byte, identifier and filler (R89). -/
theorem Request.frame_read {q : Request} (h : q.rw = .read) (pf : Profile) :
    q.frame pf = [pf.ctrlRd, q.id, 0x00#8] := by
  simp only [frame, h]

theorem Request.effect_write {q : Request} (h : q.rw = .write) (s : State) :
    q.effect s = remWrite q.id q.wdata s := by
  simp only [effect, h]

theorem Request.received_read {q : Request} (h : q.rw = .read) (s : State) : q.received s = remRead q.id s := by
  simp only [received, h]

/-- The capture register reads as the environment's byte (R34). -/
theorem remRead_regCap (s : State) : remRead s.profile.regCap s = s.env.capture := by
  rw [remRead, remoteClass_regCap]

/-- Settles O42. -/
theorem transactionExchangesThreeBytes : Obligations.TransactionExchangesThreeBytes := by
  intro who q s
  rcases transact_cases who q s with ⟨hbusy, howner, h⟩ | ⟨hfree, hresponse, h⟩ | ⟨_, _, hfree, hresponse, -⟩
  · exact ⟨fun hown => absurd (hown hbusy) howner, fun _ _ => h⟩
  · refine ⟨fun _ _ => ⟨_, _, h, rfl, rfl, fun hrw => ⟨q.frame_write hrw _, ?_⟩, fun hrw =>
      ⟨q.frame_read hrw _, q.received_read hrw s, ?_⟩⟩, fun hbusy howner => absurd ⟨hbusy, howner⟩ hfree⟩
    · rw [q.effect_write hrw]
    · rw [q.effect_read s hrw]
  · exact ⟨fun _ hcompletes => by simp [hresponse] at hcompletes,
      fun hbusy howner => absurd ⟨hbusy, howner⟩ hfree⟩

/-- Settles O44. -/
theorem handlerReadsTheCaptureRegister : Obligations.HandlerReadsTheCaptureRegister := by
  intro s _ _ hown
  rcases hndStep_cases s with ⟨hbusy, howner, -⟩ | ⟨hresponse, h⟩ | ⟨slot, landed, hresponse, h⟩
  · exact absurd (hown hbusy) howner
  · rw [h, remRead_regCap, hresponse]
    exact ⟨fun _ => ⟨rfl, rfl, rfl, rfl⟩, nofun⟩
  · refine ⟨fun hcompletes => by simp [hresponse] at hcompletes, fun slot' landed' hstalls => ?_⟩
    obtain ⟨rfl, rfl⟩ := Response.stalls.inj (hstalls.symm.trans hresponse)
    rw [h]
    exact ⟨rfl, rfl, rfl, rfl, rfl⟩

/-- Settles O45, one outcome of HND's step at a time. -/
theorem handlerTouchesOnlyItsOwn : Obligations.HandlerTouchesOnlyItsOwn := by
  intro s
  rcases hndStep_cases s with ⟨-, -, h⟩ | ⟨-, h⟩ | ⟨slot, landed, -, h⟩ <;> rw [h]

/-- Settles O46. -/
theorem eitherAgentMayGoFirst : Obligations.EitherAgentMayGoFirst := by
  intro s hbuild hreset hready
  refine ⟨fun hturn => ?_, fun hturn => ?_⟩
  · simp [step, hbuild, hreset, State.hndMoves, hready, hturn]
  · exact step_eq_mainStep hbuild hreset (by simp [State.hndMoves, hturn])

end Sys2Proof.Machine
end

section
/-! # Remote registers, read and written

What a read or a write through a register's identifier does, bit by bit, and the two commands that are one such
transaction each: XRD (R154, R159) and XWR (R155, R160). -/

namespace Sys2Proof.Machine

/-! ## The identifiers of the profile -/

/-- An identifier of the profile has a class (R33). -/
theorem exists_remoteClass {pf : Profile} {id : Byte} (h : id ∈ pf.allIds) : ∃ c, remoteClass pf id = some c := by
  rw [← Option.ne_none_iff_exists', ne_eq, remoteClass_eq_lookup, List.lookup_eq_none_iff]
  intro hnone
  rw [← remoteTable_keys, List.mem_map] at h
  obtain ⟨e, he, rfl⟩ := h
  simpa using hnone e he

/-- The three checks of a well-formed REMOTE profile's identifiers and control bytes (R23(e)). -/
theorem remote_checks {pf : Profile} (hwf : pf.wf = true) (hk : pf.kind = .remote) :
    pf.remoteIds.map (·.port) = pf.ports ∧ pf.allIds.Nodup ∧ pf.ctrlWr ≠ pf.ctrlRd := by
  obtain ⟨-, -, -, -, -, hids⟩ := wf_checks hwf
  simpa [Profile.idsDistinct, hk, and_assoc] using hids

section
variable {pf : Profile} (hwf : pf.wf = true) (hk : pf.kind = .remote) {x : RemoteIds} (hx : x ∈ pf.remoteIds)
include hwf hk hx

/-- Identifiers are listed for ports of the profile (R23(e)). -/
theorem port_mem_of_mem_remoteIds : x.port ∈ pf.ports := by
  obtain ⟨hports, -⟩ := remote_checks hwf hk
  exact hports ▸ List.mem_map_of_mem hx

/-- Each port has one entry, so an entry is that of its port. -/
theorem idsOf_port : idsOf pf x.port = x := by
  obtain ⟨-, -, -, hasc, -, -⟩ := wf_checks hwf
  obtain ⟨hports, -⟩ := remote_checks hwf hk
  have hnodup : (pf.remoteIds.map (·.port)).Nodup := hports ▸ (of_decide_eq_true hasc).imp Nat.ne_of_lt
  obtain ⟨hmem, hport⟩ := idsOf_mem hwf hk (port_mem_of_mem_remoteIds hwf hk hx)
  exact List.inj_on_of_nodup_map hnodup hmem hx hport

/-- The three identifiers of an entry are those through which its port's registers are accessed. -/
theorem eq_regId {r : Reg} {id : Byte}
    (h : r = .dir ∧ id = x.regDir ∨ r = .pue ∧ id = x.regPue ∨ r = .out ∧ id = x.regPort) :
    id = regId pf r x.port := by
  rcases h with ⟨rfl, rfl⟩ | ⟨rfl, rfl⟩ | ⟨rfl, rfl⟩ <;> simp only [regId, idsOf_port hwf hk hx]

end

/-- A port register's identifier is one of the profile's. -/
theorem regId_mem_allIds {pf : Profile} (hwf : pf.wf = true) (hk : pf.kind = .remote) {p : Nat} (hp : p ∈ pf.ports)
    (r : Reg) : regId pf r p ∈ pf.allIds := by
  by_contra h
  have hnone := remoteClass_eq_none h
  rw [remoteClass_regId hwf hk hp r] at hnone
  cases hnone

/-! ## One bit of a remote register -/

/-- A bit of the register space of an 8-bit build is one of the port's register. -/
theorem Memory.bit_eq_port8 {m : Memory} {pf : Profile} (hfits : m.fits pf = true) (hk : pf.kind ≠ .wide) (r : Reg)
    (p b : Nat) : m.bit r p b = ((m.port8 p).get r).getLsbD b := by
  obtain ⟨ps, rfl, -⟩ := Memory.fits_narrow hfits hk
  rfl

/-- A line of an 8-bit port reads as the level R30 gives it, where R30 gives one. -/
theorem State.getLsbD_levels8 {s : State} (hfits : s.mem.fits s.profile = true) (hk : s.profile.kind ≠ .wide)
    {p b : Nat} {v : Bool} (hb : b < 8) (h : s.definiteLevel s.env p b = some v) :
    (s.levels8 p).getLsbD b = v := by
  obtain ⟨hout, -, hdriven, hpull, -⟩ := lineLevelsFollowTheirDrive 8 (Config.dirInv s.profile.kind)
    (s.mem.port8 p) s.env s.drawCount p b hb
  simp only [State.definiteLevel, State.outputLine, Memory.bit_eq_port8 hfits hk, Regs.get, isOut] at h
  split at h
  · rename_i hdir
    split at h
    · rename_i hext
      exact (hout hdir hext).trans (Option.some.inj h)
    · cases h
  · rename_i hdir
    rw [Bool.not_eq_true] at hdir
    split at h
    · rename_i u hext
      exact (hdriven u hdir hext).trans (Option.some.inj h)
    · rename_i hext
      split at h
      · rename_i hpue
        exact (hpull hdir hext hpue).trans (Option.some.inj h)
      · cases h

/-- An uncontended output has its latch's level (R30). -/
theorem State.uncontended.definiteLevel {s : State} {e : Env} {p b : Nat} (h : s.uncontended e p b) :
    s.definiteLevel e p b = some (s.mem.bit .out p b) := by
  obtain ⟨hout, hext⟩ := h
  rw [State.definiteLevel, if_pos hout, if_pos hext]

/-- The registers after a write depend on the build and its registers only. -/
theorem remWrite_mem_congr {s u : State} (hprofile : u.profile = s.profile) (hmem : u.mem = s.mem) (id v : Byte) :
    (remWrite id v u).mem = (remWrite id v s).mem := by
  unfold remWrite
  rw [hprofile]
  split <;> simp only [hmem]

section
variable {s : State} (hbuild : s.buildOk = true) (hk : s.profile.kind = .remote)
include hbuild hk

/-- A write through a register's identifier replaces all its bits and no bit of another (R155). -/
theorem bit_remWrite_regId {p : Nat} (hp : p ∈ s.profile.ports) (r : Reg) (v : Byte) (r' : Reg) (q b : Nat) :
    (remWrite (regId s.profile r p) v s).mem.bit r' q b =
      if r' = r ∧ q = p then v.getLsbD b else s.mem.bit r' q b := by
  obtain ⟨hwf, hfits⟩ := s.buildOk_iff.mp hbuild
  obtain ⟨ps, hmem, hports⟩ := Memory.fits_narrow hfits (by simp [hk])
  rw [remWrite_regId hwf hk hp, hmem, Memory.bit_modify8 (hports ▸ hp)]
  by_cases hq : q = p
  · by_cases hr : r' = r
    · simp [hq, hr]
    · simp [hq, hr, Regs.get_set_other _ _ hr, Memory.bit_bytes]
  · simp [hq]

/-- A read through the identifier of a direction or pull-up register returns its bits (R154). -/
theorem getLsbD_remRead_regId {p : Nat} (hp : p ∈ s.profile.ports) {r : Reg} (hr : r ≠ .out) (b : Nat) :
    (remRead (regId s.profile r p) s).getLsbD b = s.mem.bit r p b := by
  obtain ⟨hwf, hfits⟩ := s.buildOk_iff.mp hbuild
  rw [remRead_regId hwf hk hp hr, Memory.bit_eq_port8 hfits (by simp [hk])]

/-- A read through the identifier of the port register returns the line levels (R154). -/
theorem remRead_regId_out {p : Nat} (hp : p ∈ s.profile.ports) :
    remRead (regId s.profile .out p) s = s.levels8 p := by
  obtain ⟨hwf, -⟩ := s.buildOk_iff.mp hbuild
  rw [remRead, remoteClass_regId hwf hk hp]
  rfl

/-- So it returns the level R30 gives a line, where R30 gives one. -/
theorem getLsbD_remRead_regId_out {p : Nat} (hp : p ∈ s.profile.ports) {b : Nat} {v : Bool} (hb : b < 8)
    (h : s.definiteLevel s.env p b = some v) : (remRead (regId s.profile .out p) s).getLsbD b = v := by
  obtain ⟨-, hfits⟩ := s.buildOk_iff.mp hbuild
  rw [remRead_regId_out hbuild hk hp]
  exact s.getLsbD_levels8 hfits (by simp [hk]) hb h

end

/-! ## A transaction the link serves -/

/-- With the link free for MAIN and the device responding the transaction completes in this step. -/
theorem transact_of_linkServes {s : State} (h : s.linkServes) (q : Request) :
    transact .main q s = .done (q.received s) (q.served s) := by
  obtain ⟨hown, hresponse⟩ := h
  rcases transact_cases .main q s with ⟨hbusy, howner, -⟩ | ⟨-, -, hdone⟩ | ⟨_, _, -, hstalls, -⟩
  · exact absurd (hown hbusy) howner
  · exact hdone
  · rw [hresponse] at hstalls
    cases hstalls

/-- The state after the completed transaction `x`, before `USEQ` advances. -/
def Xact.after (x : Xact) (s : State) : State := x.keep ((x.request s).received s) ((x.request s).served s)

/-- Then the command advances past its `USEQ`-th transaction. -/
theorem runRemote_of_linkServes {s : State} (h : s.linkServes) {xs : List Xact} {x : Xact}
    (hx : xs[s.useq]? = some x) (res : Result) :
    runRemote xs res s = (x.after s).advance xs.length
      (res.eval (x.after s).profile (x.after s).samples ((x.request s).received s)) := by
  simp only [runRemote, hx, transact_of_linkServes h]
  rfl

section
variable {s : State} (huseq : s.useq = 0) (h : s.linkServes)
include huseq h

/-- A command of one transaction completes with it. -/
theorem runRemote_singleton_of_linkServes (x : Xact) (res : Result) :
    runRemote [x] res s = { x.after s with useq := (x.after s).useq + 1 }.complete
      (res.eval (x.after s).profile (x.after s).samples ((x.request s).received s)) := by
  rw [runRemote_of_linkServes h (x := x) (by rw [huseq]; rfl), State.advance_of_le _ (by simp)]

variable (hk : s.profile.kind = .remote)
include hk

/-- XRD of an identifier with a meaning, in its one step. -/
theorem exec_xrd_of_linkServes {id : Byte} (hid : id ∈ s.profile.allIds) :
    exec (.xrd id) s = .next
      { s with
        res := remRead id s, active := false, samples := [], useq := s.useq + 1
        sspc := Sspc.finished .main [s.profile.ctrlRd, id, 0x00#8] (remRead id s), drawCount := s.drawCount + 1 } := by
  obtain ⟨c, hc⟩ := exists_remoteClass hid
  simp only [exec, execXrd, hk, hc, runRemote_singleton_of_linkServes huseq h]
  rfl

/-- XWR of a port register's identifier, in its one step. -/
theorem exec_xwr_of_linkServes (hwf : s.profile.wf = true) {p : Nat} (hp : p ∈ s.profile.ports) (r : Reg) (v : Byte) :
    exec (.xwr (regId s.profile r p) v) s = .next
      { s with
        mem := (remWrite (regId s.profile r p) v s).mem
        res := 0x00#8, active := false, samples := [], useq := s.useq + 1
        sspc := Sspc.finished .main [s.profile.ctrlWr, regId s.profile r p, v] (Config.freeRx s.drawCount 2)
        drawCount := s.drawCount + 1 } := by
  have hclass := remoteClass_regId hwf hk hp r
  have hrun := runRemote_singleton_of_linkServes huseq h (.store (regId s.profile r p) v) .none
  have hexec : exec (.xwr (regId s.profile r p) v) s = .next (runRemote [.store (regId s.profile r p) v] .none s) := by
    simp only [exec, execXwr, hk, hclass]
    cases r <;> rfl
  simp only [Xact.after, Xact.keep, Xact.request, Request.served, Request.effect] at hrun
  rw [hexec, hrun, remWrite_eq]
  rfl

end

/-- Settles O39: XRD's one transaction returns what reading the identifier returns. -/
theorem xrdReturnsTheRemoteRegister : Obligations.XrdReturnsTheRemoteRegister := by
  intro s id hbuild hk huseq h hid
  obtain ⟨hwf, -⟩ := s.buildOk_iff.mp hbuild
  refine ⟨_, exec_xrd_of_linkServes huseq h hk hid, by rw [huseq], rfl, rfl, rfl, ?_, fun x hx => ?_⟩
  · rintro rfl
    exact remRead_regCap s
  · have hp := port_mem_of_mem_remoteIds hwf hk hx
    refine ⟨fun hdir b _ => ?_, fun hpue b _ => ?_, fun hport => ⟨?_, fun b v hb hv => ?_⟩⟩
    · rw [eq_regId hwf hk hx (.inl ⟨rfl, hdir⟩)]
      exact getLsbD_remRead_regId hbuild hk hp (r := .dir) nofun b
    · rw [eq_regId hwf hk hx (.inr (.inl ⟨rfl, hpue⟩))]
      exact getLsbD_remRead_regId hbuild hk hp (r := .pue) nofun b
    · rw [eq_regId hwf hk hx (.inr (.inr ⟨rfl, hport⟩))]
      exact remRead_regId_out hbuild hk hp
    · rw [eq_regId hwf hk hx (.inr (.inr ⟨rfl, hport⟩))]
      exact getLsbD_remRead_regId_out hbuild hk hp hb hv

/-- Settles O40. -/
theorem xwrReplacesTheWholeRegister : Obligations.XwrReplacesTheWholeRegister := by
  intro s x r id v hbuild hk huseq h hx hid
  obtain ⟨hwf, -⟩ := s.buildOk_iff.mp hbuild
  have hp := port_mem_of_mem_remoteIds hwf hk hx
  rw [eq_regId hwf hk hx hid]
  exact ⟨_, exec_xwr_of_linkServes huseq h hk hwf hp r v, by rw [huseq], rfl, rfl, rfl, fun r' q b _ =>
    bit_remWrite_regId hbuild hk hp r v r' q b⟩

/-- Settles O41: the register that XRD reads holds the byte that XWR wrote, and the lines of uncontended outputs have
their latches' levels. -/
theorem remoteWriteThenReadReturnsTheByte : Obligations.RemoteWriteThenReadReturnsTheByte := by
  intro s t u x r id v hbuild hk huseq h hx hid hwrite hbuild' hprofile hsame huseq' h' hout
  obtain ⟨hwf, -⟩ := s.buildOk_iff.mp hbuild
  have hp := port_mem_of_mem_remoteIds hwf hk hx
  rw [eq_regId hwf hk hx hid] at hwrite ⊢
  rw [exec_xwr_of_linkServes huseq h hk hwf hp] at hwrite
  injection hwrite with ht
  subst ht
  have hprofile : u.profile = s.profile := hprofile
  have hheld (b : Nat) (hb : b < 8) : u.mem.bit r x.port b = v.getLsbD b := by
    rw [hsame b hb, bit_remWrite_regId hbuild hk hp, if_pos ⟨rfl, rfl⟩]
  rw [← hprofile] at hwf hk hp ⊢
  refine ⟨_, exec_xrd_of_linkServes huseq' h' hk (regId_mem_allIds hwf hk hp r), BitVec.eq_of_getLsbD_eq fun b hb => ?_⟩
  show (remRead (regId u.profile r x.port) u).getLsbD b = v.getLsbD b
  rw [← hheld b hb]
  by_cases hr : r = .out
  · subst hr
    exact getLsbD_remRead_regId_out hbuild' hk hp hb (hout rfl b hb).definiteLevel
  · exact getLsbD_remRead_regId hbuild' hk hp hr b

end Sys2Proof.Machine
end

section
/-! # The read-modify-writes of REMOTE

PREPIN, DRVDATA, SETCST and SETCDIR list their accesses as masked writes; on REMOTE the `k`-th of them is the `k`-th
`RemRMW` of R186 and R209, and so the transactions `2 k` and `2 k + 1`. -/

namespace Sys2Proof.Machine

/-! ## Masks and values -/

/-- The port mask of an intersection is the intersection of the port masks. -/
theorem WellPlaced.smask_and {map : LineMap} {w : Nat} (hmap : WellPlaced map w) (m n : Byte) (p : Nat) :
    (smask map (m &&& n) p : BitVec w) = smask map m p &&& smask map n p := by
  refine hmap.spread_eq (fun i hp => ?_) fun b _ h => ?_
  · subst hp
    simp only [BitVec.getLsbD_and, hmap.getLsbD_smask]
  · rw [BitVec.getLsbD_and, smask, getLsbD_spread_other map p b _ h, Bool.false_and]

/-- Where the direction register stores 0 for output, a direction value is the port mask of the inputs (R122). -/
theorem sdir_true {w : Nat} (map : LineMap) (d : Byte) (p : Nat) :
    (sdir true map d p : BitVec w) = smask map (~~~d) p := by
  unfold sdir smask
  congr 1
  funext i _
  simp

/-- A masked update does not depend on the value outside the mask. -/
theorem merge_congr {w : Nat} {pm pv pv' : BitVec w} (h : pv' &&& pm = pv &&& pm) (old : BitVec w) :
    merge old pm pv' = merge old pm pv := by
  rw [merge, merge, h]

/-- On an affected port the masked write is issued (R129). -/
theorem mwList_of_mem_aff {pf : Profile} {map : LineMap} {m : Byte} {p : Nat} (hmap : WellPlaced map 8)
    (hp : p ∈ aff pf map m) (r : Reg) (pv : Byte) : mwList r p (smask map m p) pv = [.mw r p (smask map m p) pv] := by
  rw [mem_aff] at hp
  exact if_neg ((hmap.smask_ne_zero_iff m p).mpr hp.2)

/-! ## The accesses of the four commands -/

/-- The access carries out the read-modify-write as R186 and R209 list it: the same register of a port of the build
under the same mask, with the same value there. -/
def Access.Performs (pf : Profile) (a : Access 8) (u : Reg × Nat × Byte × Byte) : Prop :=
  ∃ r p pm pv pv', a = .mw r p pm pv' ∧ u = (r, p, pm, pv) ∧ p ∈ pf.ports ∧ pv' &&& pm = pv &&& pm

theorem Access.Performs.refl {pf : Profile} {p : Nat} (hp : p ∈ pf.ports) (r : Reg) (pm pv : Byte) :
    (Access.mw r p pm pv).Performs pf (r, p, pm, pv) := ⟨r, p, pm, pv, pv, rfl, rfl, hp, rfl⟩

theorem Access.Performs.isWriteOn {pf : Profile} {a : Access 8} {u : Reg × Nat × Byte × Byte} (h : a.Performs pf u) :
    a.IsWriteOn pf := by
  obtain ⟨r, p, pm, pv, pv', rfl, -, hp, -⟩ := h
  exact ⟨r, p, pm, pv', rfl, hp⟩

/-- The accesses of a plan carry out a list of read-modify-writes when those of each affected port do. -/
theorem performs_flatMap_aff {pf : Profile} {map : LineMap} {m : Byte} {f : Nat → List (Access 8)}
    {g : Nat → List (Reg × Nat × Byte × Byte)}
    (h : ∀ p ∈ aff pf map m, List.Forall₂ (Access.Performs pf) (f p) (g p)) :
    List.Forall₂ (Access.Performs pf) ((aff pf map m).flatMap f) ((aff pf map m).flatMap g) := by
  refine List.rel_flatMap (R := fun p q => p = q ∧ p ∈ aff pf map m)
    (List.forall₂_same.mpr fun p hp => ⟨rfl, hp⟩) ?_
  rintro p _ ⟨rfl, hp⟩
  exact h p hp

section
variable {pf : Profile} (hwf : pf.wf = true) (hk : pf.kind = .remote)
include hwf hk

theorem prepin_performs : List.Forall₂ (Access.Performs pf) (prepinAccesses 8 pf) (remoteUpdates pf .prepin) := by
  have hmap : WellPlaced pf.dmap 8 := wellPlaced_dmap hwf (by simp [hk, Config.width])
  have hdir (p : Nat) : (sdir (Config.dirInv pf.kind) pf.dmap 0x00#8 p : Byte) = dataMask pf p := by
    rw [hk]; exact sdir_true ..
  refine performs_flatMap_aff fun p hp => ?_
  have hport := ((mem_aff ..).mp hp).1
  simp only [hdir, dataMask, mwList_of_mem_aff hmap hp]
  exact .cons (.refl hport ..) (.cons (.refl hport ..) .nil)

theorem drvdata_performs (v : Byte) :
    List.Forall₂ (Access.Performs pf) (drvdataAccesses 8 pf v) (remoteUpdates pf (.drvdata v)) := by
  have hmap : WellPlaced pf.dmap 8 := wellPlaced_dmap hwf (by simp [hk, Config.width])
  have hdir (p : Nat) : (sdir (Config.dirInv pf.kind) pf.dmap 0xFF#8 p : Byte) = 0x00#8 := by
    rw [hk]; exact (sdir_true ..).trans (smask_zero ..)
  refine performs_flatMap_aff fun p hp => ?_
  have hport := ((mem_aff ..).mp hp).1
  simp only [hdir, dataMask, mwList_of_mem_aff hmap hp]
  exact .cons (.refl hport ..) (.cons (.refl hport ..) (.cons (.refl hport ..) .nil))

theorem setcst_performs (bits mask : Byte) :
    List.Forall₂ (Access.Performs pf) (setcstAccesses 8 pf bits mask) (remoteUpdates pf (.setcst bits mask)) := by
  have hmap : WellPlaced pf.cmap 8 := wellPlaced_cmap hwf (by simp [hk, Config.width])
  rw [remoteUpdates, List.map_eq_flatMap]
  refine performs_flatMap_aff fun p hp => ?_
  have hport := ((mem_aff ..).mp hp).1
  rw [mwList_of_mem_aff hmap hp]
  exact .cons (.refl hport ..) .nil

/-- SETCDIR's pull-up value is given under the mask only; R209 lists it for every line. -/
theorem setcdir_performs (bits mask : Byte) :
    List.Forall₂ (Access.Performs pf) (setcdirAccesses pf bits mask) (remoteUpdates pf (.setcdir bits mask)) := by
  have hmap : WellPlaced pf.cmap 8 := wellPlaced_cmap hwf (by simp [hk, Config.width])
  have hdir (p : Nat) : (sdir (Config.dirInv pf.kind) pf.cmap bits p : Byte) = smask pf.cmap (~~~bits) p := by
    rw [hk]; exact sdir_true ..
  have hpull (p : Nat) : (smask pf.cmap (~~~bits &&& mask) p : Byte) &&& smask pf.cmap mask p =
      smask pf.cmap (~~~bits) p &&& smask pf.cmap mask p := by
    rw [hmap.smask_and, BitVec.and_assoc, BitVec.and_self]
  refine performs_flatMap_aff fun p hp => ?_
  have hport := ((mem_aff ..).mp hp).1
  simp only [hdir, mwList_of_mem_aff hmap hp]
  exact .cons (.refl hport ..) (.cons ⟨_, _, _, _, _, rfl, rfl, hport, hpull p⟩ .nil)

/-- A command with read-modify-writes runs a plan whose accesses carry them out. -/
theorem exists_plan_of_remoteUpdates {i : Instr} (h : remoteUpdates pf i ≠ []) :
    ∃ c : Plan, c.result = .none ∧ List.Forall₂ (Access.Performs pf) c.narrow (remoteUpdates pf i) ∧
      ∀ s : State, s.profile = pf → exec i s = .next (c.run s) := by
  cases i with
  | prepin => exact ⟨prepinPlan pf, rfl, prepin_performs hwf hk, fun s hs => hs ▸ rfl⟩
  | drvdata v => exact ⟨drvdataPlan pf v, rfl, drvdata_performs hwf hk v, fun s hs => hs ▸ rfl⟩
  | setcst bits mask => exact ⟨setcstPlan pf bits mask, rfl, setcst_performs hwf hk bits mask, fun s hs => hs ▸ rfl⟩
  | setcdir bits mask =>
    exact ⟨setcdirPlan pf bits mask, rfl, setcdir_performs hwf hk bits mask, fun s hs => hs ▸ rfl⟩
  | rddata => exact absurd rfl h
  | qpin index => exact absurd rfl h
  | rev8 x => exact absurd rfl h
  | xrd id => exact absurd rfl h
  | xwr id v => exact absurd rfl h

/-- The `k`-th read-modify-write of a command is its transactions `2 k` and `2 k + 1` (R161). -/
theorem exec_of_remoteUpdate {i : Instr} {k p : Nat} {r : Reg} {pm pv : Byte}
    (h : (remoteUpdates pf i)[k]? = some (r, p, pm, pv)) :
    ∃ xs pv', (∀ s : State, s.profile = pf → exec i s = .next (runRemote xs .none s)) ∧
      xs.length = 2 * (remoteUpdates pf i).length ∧ xs[2 * k]? = some (.readT (regId pf r p)) ∧
      xs[2 * k + 1]? = some (.writeT (regId pf r p) pm pv') ∧ p ∈ pf.ports ∧ pv' &&& pm = pv &&& pm := by
  obtain ⟨hlt, hget⟩ := List.getElem?_eq_some_iff.mp h
  obtain ⟨c, hres, hperforms, hexec⟩ :=
    exists_plan_of_remoteUpdates hwf hk (i := i) (List.ne_nil_of_length_pos (by omega))
  have hlen := hperforms.length_eq
  have hon : ∀ a ∈ c.narrow, a.IsWriteOn pf :=
    ((List.forall₂_and_left _ _).mp (hperforms.imp fun a u hau => ⟨hau.isWriteOn, hau⟩)).1
  have hk' : k < c.narrow.length := by omega
  obtain ⟨r', p', pm', pv₀, pv', ha, hu, hp, hval⟩ := hperforms.get hk' hlt
  obtain ⟨rfl, rfl, rfl, rfl⟩ : r = r' ∧ p = p' ∧ pm = pm' ∧ pv = pv₀ := by
    simpa using hget.symm.trans hu
  have ha : c.narrow[k]? = some (.mw r p pm pv') := List.getElem?_eq_some_iff.mpr ⟨hk', ha⟩
  refine ⟨c.narrow.flatMap (Access.xacts pf), pv', fun s hs => ?_, by rw [length_xacts hon, hlen], ?_, ?_, hp, hval⟩
  · subst hs
    rw [hexec s rfl, c.run_remote hk, hres]
  · rw [getElem?_xacts hon, Nat.mul_div_cancel_left k Nat.two_pos, ha, Nat.mul_mod_right]
    rfl
  · rw [getElem?_xacts hon, show (2 * k + 1) / 2 = k by omega, ha, show (2 * k + 1) % 2 = 1 by omega]
    rfl

end

/-! ## The two halves -/

section
variable {s : State} (h : s.linkServes) {xs : List Xact} {r : Reg} {p : Nat}
include h

/-- The read half, served (R161). -/
theorem runRemote_readT (hx : xs[s.useq]? = some (.readT (regId s.profile r p))) (res : Result)
    (hlen : s.useq + 1 < xs.length) :
    runRemote xs res s =
      { s with
        t := remRead (regId s.profile r p) s, useq := s.useq + 1
        sspc := Sspc.finished .main [s.profile.ctrlRd, regId s.profile r p, 0x00#8]
          (remRead (regId s.profile r p) s)
        drawCount := s.drawCount + 1 } := by
  rw [runRemote_of_linkServes h hx]
  exact State.advance_of_lt _ hlen

/-- The write half, served (R161). -/
theorem runRemote_writeT {pm pv : Byte} (hx : xs[s.useq]? = some (.writeT (regId s.profile r p) pm pv)) :
    runRemote xs .none s =
      { s with
        mem := (remWrite (regId s.profile r p) (merge s.t pm pv) s).mem
        sspc := Sspc.finished .main [s.profile.ctrlWr, regId s.profile r p, merge s.t pm pv]
          (Config.freeRx s.drawCount 2)
        drawCount := s.drawCount + 1 : State }.advance xs.length 0x00#8 := by
  rw [runRemote_of_linkServes h hx]
  simp only [Xact.after, Xact.keep, Xact.request, Request.served, Request.effect]
  rw [remWrite_eq]
  rfl

end

/-- Settles O37. -/
theorem remoteReadHalfLoadsTheLatch : Obligations.RemoteReadHalfLoadsTheLatch := by
  intro s i k r p pm pv hbuild hk h hupdate huseq
  obtain ⟨hwf, -⟩ := s.buildOk_iff.mp hbuild
  obtain ⟨xs, pv', hexec, hlen, hread, -, hp, -⟩ := exec_of_remoteUpdate hwf hk hupdate
  obtain ⟨hlt, -⟩ := List.getElem?_eq_some_iff.mp hupdate
  rw [← huseq] at hread
  refine ⟨_, (hexec s rfl).trans (congrArg _ (runRemote_readT h hread .none (by omega))), rfl, rfl, rfl, rfl,
    fun hr b _ => getLsbD_remRead_regId hbuild hk hp hr b, ?_⟩
  rintro rfl b v hb hv
  exact getLsbD_remRead_regId_out hbuild hk hp hb hv

/-- Settles O38: the command completes when the update is its last. -/
theorem remoteWriteHalfStoresTheMerge : Obligations.RemoteWriteHalfStoresTheMerge := by
  intro s i k r p pm pv hbuild hk h hupdate huseq
  obtain ⟨hwf, -⟩ := s.buildOk_iff.mp hbuild
  obtain ⟨xs, pv', hexec, hlen, -, hwrite, hp, hval⟩ := exec_of_remoteUpdate hwf hk hupdate
  rw [← huseq] at hwrite
  have hrun := runRemote_writeT h hwrite
  rw [merge_congr hval, hlen] at hrun
  refine ⟨_, (hexec s rfl).trans (congrArg _ hrun), ?_, by simp [Sspc.finished], by simp [Sspc.finished],
    by simp [Sspc.finished, merge], fun r' q b _ => ?_⟩
  · by_cases hlast : k + 1 = (remoteUpdates s.profile i).length
    · rw [State.advance_of_le _ (by simp only; omega)]
      simp only [if_pos hlast]
      rfl
    · obtain ⟨hlt, -⟩ := List.getElem?_eq_some_iff.mp hupdate
      rw [State.advance_of_lt _ (by simp only; omega)]
      simp only [if_neg hlast]
  · rw [State.advance_mem, bit_remWrite_regId hbuild hk hp, getLsbD_merge]

end Sys2Proof.Machine
end

section
/-! # A command that stalls

While the device does not respond, MAIN's transaction waits (R158); a write may have landed (U5, D30). -/

namespace Sys2Proof.Machine

/-! ## The waiting transaction -/

/-- With the link free for MAIN and the device not responding the transaction waits. -/
theorem transact_of_stalls {s : State} {slot : Fin 3} {landed : Bool}
    (hown : s.sspc.busy = true → s.sspc.owner = .main) (hresponse : s.env.response = .stalls slot landed)
    (q : Request) : transact .main q s = .waiting (q.stalled slot landed s) := by
  rcases transact_cases .main q s with ⟨hbusy, howner, -⟩ | ⟨-, hcompletes, -⟩ | ⟨_, _, -, hstalls, hwait⟩
  · exact absurd (hown hbusy) howner
  · rw [hresponse] at hcompletes
    cases hcompletes
  · obtain ⟨rfl, rfl⟩ := Response.stalls.inj (hresponse.symm.trans hstalls)
    exact hwait

/-- So a command at a transaction waits in it. -/
theorem exec_of_stalls {s t : State} {i : Instr} {slot : Fin 3} {landed : Bool} (hk : s.profile.kind = .remote)
    (hlt : s.useq < (remoteXacts s.profile i).length) (hown : s.sspc.busy = true → s.sspc.owner = .main)
    (hresponse : s.env.response = .stalls slot landed) (h : exec i s = .next t) :
    ∃ q : Request, t = q.stalled slot landed s := by
  rcases exec_remote_cases hk h with ⟨res, rfl⟩ | ⟨hnil, -⟩
  · refine ⟨(remoteXacts s.profile i)[s.useq].request s, ?_⟩
    simp only [runRemote, List.getElem?_eq_getElem hlt, transact_of_stalls hown hresponse]
  · rw [hnil] at hlt
    cases hlt

namespace Request

variable (q : Request) (slot : Fin 3) (landed : Bool) (s : State)

/-- A wait changes the registers and the link only. -/
theorem stalled_eq : q.stalled slot landed s =
    { s with mem := (q.stalled slot landed s).mem, sspc := (q.stalled slot landed s).sspc } := by
  unfold stalled
  split
  · rw [q.effect_eq]
  · rfl

theorem stalled_sspc :
    (q.stalled slot landed s).sspc = Sspc.waitingAt .main (q.frame s.profile) (stallSlot s.sspc slot.val) := rfl

/-- Three bytes make a frame (R89). -/
theorem length_frame (pf : Profile) : (q.frame pf).length = 3 := by
  cases h : q.rw <;> simp [frame, h]

variable {q slot landed s}

/-- The registers change only when a write waits at byte 2 and has landed. -/
theorem stalled_mem_of_not_landed (hctrl : s.profile.ctrlWr ≠ s.profile.ctrlRd)
    (h : landed = false ∨ (q.stalled slot landed s).sspc.sent.length < 2 ∨
      (q.stalled slot landed s).sspc.sent.head? = some s.profile.ctrlRd) :
    (q.stalled slot landed s).mem = s.mem := by
  rw [stalled_sspc, Sspc.waitingAt] at h
  unfold stalled
  split
  · rename_i hland
    obtain ⟨rfl, hslot⟩ := hland
    rw [hslot] at h
    cases hrw : q.rw with
    | read => simp [effect, hrw]
    | write => simp [frame, hrw, hctrl] at h
  · rfl

/-- When it has, the register named by byte 1 of the frame has the content that is byte 2. -/
theorem stalled_mem_of_landed (hctrl : s.profile.ctrlWr ≠ s.profile.ctrlRd) {id : Byte} (hland : landed = true)
    (h : (q.stalled slot landed s).sspc.sent = [s.profile.ctrlWr, id]) :
    (q.stalled slot landed s).mem = (remWrite id (q.stalled slot landed s).sspc.shift s).mem := by
  rw [stalled_sspc, Sspc.waitingAt] at h ⊢
  have hslot : stallSlot s.sspc slot.val = 2 := by
    have hlen := congrArg List.length h
    simp only [List.length_take, length_frame, List.length_cons, List.length_nil] at hlen
    omega
  rw [hslot] at h ⊢
  cases hrw : q.rw with
  | read => simp [frame, hrw, hctrl.symm] at h
  | write =>
    simp only [frame, hrw, List.take_succ_cons, List.take_zero, List.cons.injEq, and_true, true_and] at h
    subst h
    simp only [stalled, hslot, hland, and_self, if_true, effect, hrw, frame]
    rfl

end Request

/-! ## The step -/

@[simp] theorem State.inputs_res (s : State) : s.inputs.res = s.res := by simp [State.inputs]
@[simp] theorem State.inputs_hdata (s : State) : s.inputs.hdata = s.hdata := by simp [State.inputs]
@[simp] theorem State.inputs_env (s : State) : s.inputs.env = s.nextEnv.env := by simp [State.inputs]

/-- Settles O43: the step is the command's, on this step's inputs, and the command waits. -/
theorem stalledCommandNeverCompletes : Obligations.StalledCommandNeverCompletes := by
  refine ⟨fun s t slot landed hinv hk hat hown hhnd hreset hresponse hstep => ?_,
    fun s t i slot landed hbuild hk hlt hown hresponse hexec => ?_⟩
  · obtain ⟨hbuild, -, -⟩ := hinv
    obtain ⟨hwf, -⟩ := s.buildOk_iff.mp hbuild
    obtain ⟨hact, i, hdec, hlt⟩ := hat
    obtain ⟨hruns, -⟩ := stepRunsTheDecodedCommand
    obtain ⟨-, hlatched⟩ := hruns s i hbuild hreset hhnd
    rw [hlatched hact hdec] at hstep
    obtain ⟨q, rfl⟩ := exec_of_stalls (s := s.inputs) (by simpa using hk) (by simpa using hlt) (by simpa using hown)
      (by simpa using hresponse) hstep
    have hmem := State.inputs_mem_of_active hact
    obtain ⟨-, -, hctrl⟩ := remote_checks hwf hk
    rw [← s.inputs_profile] at hctrl ⊢
    have hkeeps := MainKeeps.stalled q slot landed s.inputs
    have hres : (q.stalled slot landed s.inputs).res = s.inputs.res := by rw [q.stalled_eq]
    refine ⟨by simpa using hact, rfl, rfl, rfl, by simp, by simp [hres], by simp [hkeeps.hdata], by simp [hkeeps.cmds],
      fun h => (Request.stalled_mem_of_not_landed hctrl h).trans hmem, fun id hland h => ?_⟩
    rw [Request.stalled_mem_of_landed hctrl hland h]
    exact remWrite_mem_congr s.inputs_profile hmem ..
  · obtain ⟨hwf, -⟩ := s.buildOk_iff.mp hbuild
    obtain ⟨-, -, hctrl⟩ := remote_checks hwf hk
    obtain ⟨q, rfl⟩ := exec_of_stalls hk hlt hown hresponse hexec
    exact ⟨q.stalled_eq slot landed s, rfl, rfl, rfl, Request.stalled_mem_of_not_landed hctrl,
      fun id => Request.stalled_mem_of_landed hctrl⟩

end Sys2Proof.Machine
end

section
/-! # What a command does not disturb

A register that a plan's accesses spare keeps every bit on every kind of build, through the handler's reads and
through stalls, from the step that accepts the command to the one that completes it. -/

namespace Sys2Proof.Machine

/-! ## Accesses that spare a register -/

/-- The access writes registers other than `r` only, on ports of the build. -/
def Access.Spares {w : Nat} (pf : Profile) (r : Reg) : Access w → Prop
  | .mw r' p _ _ => r' ≠ r ∧ p ∈ pf.ports
  | .rd _ => True

/-- The accesses of a plan spare `r` on the kind of the build. -/
structure Plan.Spares (c : Plan) (pf : Profile) (r : Reg) : Prop where
  narrow (a : Access 8) : pf.kind ≠ .wide → a ∈ c.narrow → a.Spares pf r
  wide (a : Access 32) : pf.kind = .wide → a ∈ c.wide → a.Spares pf r

@[simp] theorem Xact.keep_active (x : Xact) (rx : Byte) (s : State) : (x.keep rx s).active = s.active := by
  cases x <;> rfl

@[simp] theorem Xact.keep_mem (x : Xact) (rx : Byte) (s : State) : (x.keep rx s).mem = s.mem := by
  cases x <;> rfl

/-- Changing one register of the 32-bit port leaves the others alone. -/
theorem Memory.bit_modify32_masked_other (m : Memory) {r r' : Reg} (q b : Nat) (pm pv : Word32) (h : r' ≠ r) :
    (m.modify32 fun g => g.masked r pm pv).bit r' q b = m.bit r' q b := by
  cases m with
  | bytes ps => rfl
  | wide g => rw [Memory.bit_modify32_masked, if_neg fun hsel => h hsel.1]

theorem bit_nativeAccess_of_spares {pf : Profile} {r : Reg} {a : Access 8} (h : a.Spares pf r) (s : State)
    (q b : Nat) : (nativeAccess s a).mem.bit r q b = s.mem.bit r q b := by
  cases a with
  | mw r' p pm pv =>
    obtain ⟨hr, -⟩ := h
    exact Memory.bit_modify8_masked_miss _ _ fun hsel => hr hsel.1.symm
  | rd p => rfl

theorem bit_foldl_nativeAccess_of_spares {pf : Profile} {r : Reg} (q b : Nat) {as : List (Access 8)}
    (h : ∀ a ∈ as, a.Spares pf r) (s : State) : (as.foldl nativeAccess s).mem.bit r q b = s.mem.bit r q b := by
  induction as generalizing s with
  | nil => rfl
  | cons a as ih =>
    rw [List.foldl_cons, ih (fun c hc => h c (List.mem_cons_of_mem _ hc)),
      bit_nativeAccess_of_spares (h a (List.mem_cons_self ..))]

theorem bit_wideAccess_of_spares {pf : Profile} {r : Reg} {a : Access 32} (h : a.Spares pf r) (s : State)
    (q b : Nat) : (wideAccess s a).mem.bit r q b = s.mem.bit r q b := by
  cases a with
  | mw r' p pm pv =>
    obtain ⟨hr, -⟩ := h
    have haccess : (wideAccess s (.mw r' p pm pv)).mem = s.mem.modify32 fun g => g.masked r' pm pv := by
      cases r' <;> rfl
    rw [haccess, Memory.bit_modify32_masked_other _ _ _ _ _ hr.symm]
  | rd p => rfl

section
variable {s : State} (hbuild : s.buildOk = true)
include hbuild

/-- A transaction of such an access leaves the register alone. -/
theorem bit_effect_of_spares (hk : s.profile.kind = .remote) {r : Reg} {a : Access 8} (h : a.Spares s.profile r)
    {x : Xact} (hx : x ∈ a.xacts s.profile) (q b : Nat) :
    ((x.request s).effect s).mem.bit r q b = s.mem.bit r q b := by
  cases a with
  | mw r' p pm pv =>
    obtain ⟨hr, hp⟩ := h
    simp only [Access.xacts, List.mem_cons, List.not_mem_nil, or_false] at hx
    rcases hx with rfl | rfl
    · rfl
    · exact (bit_remWrite_regId hbuild hk hp ..).trans (if_neg fun hsel => hr hsel.1.symm)
  | rd p =>
    rw [Access.xacts, List.mem_singleton] at hx
    subst hx
    rfl

/-- One step of a plan keeps every bit of a register that its accesses spare. -/
theorem Plan.bit_run_of_spares {c : Plan} {r : Reg} (h : c.Spares s.profile r) (q b : Nat) :
    (c.run s).mem.bit r q b = s.mem.bit r q b := by
  cases hk : s.profile.kind with
  | native =>
    rw [c.run_native hk]
    exact bit_foldl_nativeAccess_of_spares q b (fun a => h.narrow a (by simp [hk])) s
  | wide =>
    rw [c.run_wide hk, runWide]
    split
    · rfl
    · rename_i a ha
      rw [State.advance_mem, bit_wideAccess_of_spares (h.wide a hk (List.mem_of_getElem? ha))]
  | remote =>
    rw [c.run_remote hk]
    rcases runRemote_cases (c.narrow.flatMap (Access.xacts s.profile)) c.result s with
      ⟨-, res, hrun⟩ | ⟨x, hx, hmoves⟩
    · rw [hrun, State.complete_mem]
    · obtain ⟨a, ha, hxa⟩ := List.mem_flatMap.mp (List.mem_of_getElem? hx)
      have heffect := bit_effect_of_spares hbuild hk (h.narrow a (by simp [hk]) ha) hxa q b
      rcases hmoves with hrun | ⟨res, hrun⟩ | ⟨slot, landed, hrun⟩ <;> rw [hrun]
      · rw [State.advance_mem, Xact.keep_mem, Request.served_mem, heffect]
      · rcases (x.request s).stalled_mem slot landed s with hmem | hmem <;> rw [hmem]
        exact heffect

end

/-! ## The result -/

/-- A command in progress that completes as `USEQ` advances has its result. -/
theorem State.advance_res_of_done {s : State} {len : Nat} {r : Byte} (hact : s.active = true)
    (h : (s.advance len r).active = false) : (s.advance len r).res = r := by
  rw [State.advance_of_le r (State.le_of_advance_done hact h), State.complete_res]

/-- A command with no return value completes with 0x00 (R84). -/
theorem Plan.res_run_of_done {c : Plan} (hres : c.result = .none) {s : State} (hact : s.active = true)
    (hdone : (c.run s).active = false) : (c.run s).res = 0x00#8 := by
  cases hk : s.profile.kind with
  | native => rw [c.run_native hk, hres]; rfl
  | wide =>
    rw [c.run_wide hk, hres, runWide] at hdone ⊢
    split at hdone
    · rfl
    · exact State.advance_res_of_done (by simpa using hact) hdone
  | remote =>
    rw [c.run_remote hk, hres, runRemote] at hdone ⊢
    split at hdone
    · rfl
    · rename_i x hx
      rcases transact_cases .main (x.request s) s with ⟨-, -, h⟩ | ⟨-, -, h⟩ | ⟨slot, landed, -, -, h⟩ <;>
        simp only [h] at hdone ⊢
      · rw [hact] at hdone
        cases hdone
      · have hkept : (x.keep ((x.request s).received s) ((x.request s).served s)).active = true := by simp [hact]
        exact State.advance_res_of_done hkept hdone
      · have hwaits := (x.request s).stalled_active slot landed s
        rw [hact] at hwaits
        exact absurd (hwaits.symm.trans hdone) nofun

/-! ## The run -/

/-- What every step of a command in progress keeps, its last one completes with. -/
theorem runUntilDone_induction {P Q : State → Prop}
    (hkeeps : ∀ s t, P s → s.active = true → step s = .next t →
      (t.active = true → P t) ∧ (t.active = false → Q t)) (n : Nat) {s t : State} (h : P s)
    (hact : s.active = true) (hrun : runUntilDone n s = .next t) (hdone : t.active = false) : Q t := by
  induction n generalizing s with
  | zero =>
    injection hrun with hrun
    rw [← hrun, hact] at hdone
    cases hdone
  | succ n ih =>
    rw [runUntilDone, if_pos hact] at hrun
    split at hrun
    next u hstep =>
      obtain ⟨hgoing, hcompleted⟩ := hkeeps s u h hact hstep
      cases hu : u.active with
      | true => exact ih (hgoing hu) hu hrun
      | false =>
        have hut : u = t := by
          cases n <;> simpa [runUntilDone, hu] using hrun
        exact hut ▸ hcompleted hu
    next => cases hrun
    next => cases hrun

/-- The latched word, the caller's queue and register `r` are as in `s₀`, and no reset is to come. -/
structure Undisturbed (r : Reg) (s₀ s : State) : Prop where
  profile : s.profile = s₀.profile
  op : s.op = s₀.op
  a : s.a = s₀.a
  b : s.b = s₀.b
  cmds : s.cmds = s₀.cmds
  noReset : s.noReset = true
  kept (p b : Nat) : s.mem.bit r p b = s₀.mem.bit r p b

/-- The inputs of a step leave the build as it is. -/
theorem State.buildOk_inputs {s : State} (h : s.buildOk = true) : s.inputs.buildOk = true := by
  obtain ⟨-, hfits⟩ := s.inputs_mem_shape
  rw [State.buildOk, State.inputs_profile, hfits]
  exact h

section
variable {c : Plan} {r : Reg} {s₀ s t : State}

/-- During a command neither the environment nor HND disturbs it (R163, R164; assumption log 17). -/
theorem Undisturbed.inputs (h : Undisturbed r s₀ s) (hact : s.active = true) : Undisturbed r s₀ s.inputs := by
  obtain ⟨-, hscript⟩ := State.noReset_inputs h.noReset
  exact ⟨s.inputs_profile.trans h.profile, s.inputs_op.trans h.op, s.inputs_a.trans h.a, s.inputs_b.trans h.b,
    s.inputs_cmds.trans h.cmds, hscript, fun p b => State.inputs_mem_of_active hact ▸ h.kept p b⟩

theorem Undisturbed.hndStep (h : Undisturbed r s₀ s) : Undisturbed r s₀ (hndStep s) := by
  rw [handlerTouchesOnlyItsOwn s]
  exact ⟨h.profile, h.op, h.a, h.b, h.cmds, h.noReset, h.kept⟩

/-- Nor does a step of a plan that spares the register. -/
theorem Undisturbed.run (h : Undisturbed r s₀ s) (hbuild : s.buildOk = true) (hspares : c.Spares s₀.profile r) :
    Undisturbed r s₀ (c.run s) := by
  have hkeep := MainKeeps.plan c s
  rw [← h.profile] at hspares
  exact ⟨hkeep.profile.trans h.profile, hkeep.op.trans h.op, hkeep.a.trans h.a, hkeep.b.trans h.b,
    hkeep.cmds.trans h.cmds, by rw [State.noReset, hkeep.script]; exact h.noReset, fun p b =>
      (Plan.bit_run_of_spares hbuild hspares p b).trans (h.kept p b)⟩

/-- One step of the machine during a command: nothing is disturbed, and a command with no return value that completes
has 0x00 as its result. -/
theorem Undisturbed.step (hword : RunsPlan c s₀) (hres : c.result = .none) (hspares : c.Spares s₀.profile r)
    (h : Undisturbed r s₀ s) (hact : s.active = true) (hstep : step s = .next t) :
    Undisturbed r s₀ t ∧ (t.active = false → t.res = 0x00#8) := by
  obtain ⟨hreset, -⟩ := State.noReset_inputs h.noReset
  have hinputs := h.inputs hact
  have hact' : s.inputs.active = true := by simpa using hact
  obtain ⟨hbuild, ⟨hr, -⟩ | ⟨-, -, rfl⟩ | ⟨-, hhnd, -⟩⟩ := step_cases hstep
  · rw [hreset] at hr
    cases hr
  · refine ⟨hinputs.hndStep, fun hdone => ?_⟩
    rw [(hndStep_handlerKeeps _).active, hact'] at hdone
    cases hdone
  · obtain ⟨i, hdec, hexec⟩ := hword
    rw [step_latched_word hbuild hreset hhnd hact, h.op, h.a, h.b, execWord_ok _ hdec,
      hexec _ hinputs.profile] at hstep
    injection hstep with hstep
    subst hstep
    exact ⟨hinputs.run (State.buildOk_inputs hbuild) hspares, Plan.res_run_of_done hres hact'⟩

end

/-! ## SETCDIR -/

/-- SETCDIR writes no latch (R204, R208). -/
theorem setcdirPlan_spares_out {pf : Profile} (hpf : pf.wf = true) (bits mask : Byte) :
    (setcdirPlan pf bits mask).Spares pf .out where
  narrow a _ ha := by
    simp only [setcdirPlan, setcdirAccesses, List.mem_flatMap, List.mem_append, mem_mwList] at ha
    obtain ⟨p, hp, ⟨-, rfl⟩ | ⟨-, rfl⟩⟩ := ha <;> exact ⟨nofun, ((mem_aff ..).mp hp).1⟩
  wide a hk ha := by
    have hport := (cmap_port_wide hpf hk 0).2
    simp only [setcdirPlan, setcdirWide, List.mem_append, mem_mwList] at ha
    rcases ha with (⟨-, rfl⟩ | ⟨-, rfl⟩) | ⟨-, rfl⟩ <;> exact ⟨nofun, hport⟩

/-- Settles O58: its directions are set, as every run of SETCDIR ends, and no step of the run disturbs the rest. -/
theorem handlerNeverDisturbsSetcdir : Obligations.HandlerNeverDisturbsSetcdir := by
  intro n s t bits mask hbuild hact huseq _ hscript hdec hrun hdone
  obtain ⟨hpf, -⟩ := s.buildOk_iff.mp hbuild
  have hword : RunsPlan (setcdirPlan s.profile bits mask) s := ⟨_, hdec, fun u hu => by rw [← hu]; rfl⟩
  have hspares := setcdirPlan_spares_out hpf bits mask
  obtain ⟨hset, -⟩ :=
    directions_paired_of_runUntilDone hword (setcdir_plans hpf bits mask) n hact huseq hscript hrun hdone
  have hbegin : Undisturbed .out s s := ⟨rfl, rfl, rfl, rfl, rfl, hscript, fun _ _ => rfl⟩
  have hstep : ∀ u v, Undisturbed .out s u → u.active = true → step u = .next v →
      (v.active = true → Undisturbed .out s v) ∧ (v.active = false → Undisturbed .out s v ∧ v.res = 0x00#8) := by
    intro u v hu hactive hstep
    obtain ⟨hv, hres⟩ := hu.step hword rfl hspares hactive hstep
    exact ⟨fun _ => hv, fun hdone => ⟨hv, hres hdone⟩⟩
  obtain ⟨h, hres⟩ := runUntilDone_induction hstep n hbegin hact hrun hdone
  exact ⟨hset, h.kept, hres, h.profile, h.op, h.a, h.b, h.cmds⟩

end Sys2Proof.Machine
end

section
/-! # The primitives of WIDE

On WIDE the one port is 0, so a command's accesses are the primitives that R186 and R208 list, each one step. -/

namespace Sys2Proof.Machine

/-! ## Fragments on the affected ports -/

theorem exists_getLsbD_of_ne_zero {m : Byte} (h : m ≠ 0#8) : ∃ i : Fin 8, m.getLsbD i.val = true := by
  by_contra hnone
  refine h (BitVec.eq_of_getLsbD_eq fun i hi => ?_)
  rw [BitVec.getLsbD_zero]
  exact Bool.eq_false_of_not_eq_true fun hbit => hnone ⟨⟨i, hi⟩, hbit⟩

/-- A mask that is not zero selects a line on some port (R124). -/
theorem aff_ne_nil {pf : Profile} {map : LineMap} (hpf : pf.wf = true) (hmap : map = pf.dmap ∨ map = pf.cmap) {m : Byte}
    (hm : m ≠ 0#8) : aff pf map m ≠ [] := by
  obtain ⟨i, hi⟩ := exists_getLsbD_of_ne_zero hm
  exact List.ne_nil_of_mem ((mem_aff_of_wf hpf hmap m _).mpr ⟨i, hi, rfl⟩)

/-- A masked write under the mask of a port with a selected line is issued (R129). -/
theorem mwList_of_portSelected {map : LineMap} {w : Nat} (hmap : WellPlaced map w) {m : Byte} {p : Nat}
    (hp : portSelected map m p) (r : Reg) (pv : BitVec w) :
    mwList r p (smask map m p) pv = [.mw r p (smask map m p) pv] :=
  if_neg ((hmap.smask_ne_zero_iff m p).mpr hp)

/-- Where the direction register stores 1 for output, a direction value is the port mask of the outputs (R122). -/
theorem sdir_false {w : Nat} (map : LineMap) (d : Byte) (p : Nat) : (sdir false map d p : BitVec w) = smask map d p := by
  simp only [sdir, smask, Bool.xor_false]

/-! ## The accesses of the four commands -/

/-- The access is the primitive as R186 and R208 list it: the same register under the same mask, with the same value
there. -/
def Access.IsPrimitive (a : Access 32) (u : Reg × Word32 × Word32) : Prop :=
  ∃ r m v v', a = .mw r 0 m v' ∧ u = (r, m, v) ∧ v' &&& m = v &&& m

theorem Access.IsPrimitive.refl (r : Reg) (m v : Word32) : (Access.mw r 0 m v).IsPrimitive (r, m, v) :=
  ⟨r, m, v, v, rfl, rfl, rfl⟩

/-- A masked write is issued when its mask is not zero, and so is the primitive (R129). -/
theorem isPrimitive_mwList {r : Reg} {m v v' : Word32} (h : v' &&& m = v &&& m) :
    List.Forall₂ Access.IsPrimitive (mwList r 0 m v') (if m = 0#32 then [] else [(r, m, v)]) := by
  unfold mwList
  split
  · exact .nil
  · exact .cons ⟨r, m, v, v', rfl, rfl, h⟩ .nil

section
variable {pf : Profile} (hpf : pf.wf = true) (hk : pf.kind = .wide)
include hpf hk

/-- The one port of a WIDE profile (R133). -/
theorem ports_wide : pf.ports = [0] := by
  obtain ⟨-, -, -, -, hports, -⟩ := wf_checks hpf
  simpa [Profile.portsOfKind, hk] using hports

theorem map_port_wide {map : LineMap} (hmap : map = pf.dmap ∨ map = pf.cmap) (i : Fin 8) : map[i].port = 0 := by
  have hport := (wf_map_line hpf hmap i).1
  rw [ports_wide hpf hk] at hport
  exact List.mem_singleton.mp hport

theorem portSelected_wide {map : LineMap} (hmap : map = pf.dmap ∨ map = pf.cmap) {m : Byte} (hm : m ≠ 0#8) :
    portSelected map m 0 := by
  obtain ⟨i, hi⟩ := exists_getLsbD_of_ne_zero hm
  exact ⟨i, hi, map_port_wide hpf hk hmap i⟩

theorem aff_wide {map : LineMap} (hmap : map = pf.dmap ∨ map = pf.cmap) {m : Byte} (hm : m ≠ 0#8) :
    aff pf map m = [0] := by
  rw [aff, ports_wide hpf hk, List.filter_cons_of_pos ((touches_iff ..).mpr (portSelected_wide hpf hk hmap hm)),
    List.filter_nil]

/-- On WIDE the masked writes of all data lines are issued. -/
theorem mwList_dataMask_wide (r : Reg) (pv : Word32) :
    mwList r 0 (dataMask pf 0) pv = [.mw r 0 (dataMask pf 0) pv] :=
  mwList_of_portSelected (wellPlaced_dmap hpf (width_wide _)) (portSelected_wide hpf hk (.inl rfl) (by decide)) r pv

theorem prepin_isPrimitive :
    List.Forall₂ Access.IsPrimitive (prepinAccesses 32 pf) (widePrimitives pf .prepin) := by
  have hdir : (sdir (Config.dirInv pf.kind) pf.dmap 0x00#8 0 : Word32) = 0#32 := by
    rw [hk]; exact (sdir_false ..).trans (smask_zero ..)
  rw [prepinAccesses, aff_wide hpf hk (.inl rfl) (by decide), List.flatMap_singleton, hdir,
    mwList_dataMask_wide hpf hk, mwList_dataMask_wide hpf hk]
  exact .cons (.refl ..) (.cons (.refl ..) .nil)

theorem drvdata_isPrimitive (v : Byte) :
    List.Forall₂ Access.IsPrimitive (drvdataAccesses 32 pf v) (widePrimitives pf (.drvdata v)) := by
  have hdir : (sdir (Config.dirInv pf.kind) pf.dmap 0xFF#8 0 : Word32) = dataMask pf 0 := by
    rw [hk]; exact sdir_false ..
  rw [drvdataAccesses, aff_wide hpf hk (.inl rfl) (by decide), List.flatMap_singleton, hdir,
    mwList_dataMask_wide hpf hk, mwList_dataMask_wide hpf hk, mwList_dataMask_wide hpf hk]
  exact .cons (.refl ..) (.cons (.refl ..) (.cons (.refl ..) .nil))

theorem setcst_isPrimitive (bits mask : Byte) :
    List.Forall₂ Access.IsPrimitive (setcstAccesses 32 pf bits mask) (widePrimitives pf (.setcst bits mask)) := by
  rw [setcstAccesses, widePrimitives]
  split
  next hzero => rw [hzero, aff_zero]; exact .nil
  next hm =>
    rw [aff_wide hpf hk (.inr rfl) hm, List.flatMap_singleton, mwList_of_portSelected
      (wellPlaced_cmap hpf (width_wide _)) (portSelected_wide hpf hk (.inr rfl) hm)]
    exact .cons (.refl ..) .nil

/-- SETCDIR gives the directions of all lines; R208 lists them for the masked ones. -/
theorem setcdir_isPrimitive (bits mask : Byte) :
    List.Forall₂ Access.IsPrimitive (setcdirWide pf bits mask) (widePrimitives pf (.setcdir bits mask)) := by
  have hmap : WellPlaced pf.cmap 32 := wellPlaced_cmap hpf (width_wide _)
  have hdir : (sdir (Config.dirInv pf.kind) pf.cmap bits 0 : Word32) &&& smask pf.cmap mask 0 =
      smask pf.cmap (bits &&& mask) 0 &&& smask pf.cmap mask 0 := by
    rw [hk, hmap.smask_and, BitVec.and_assoc, BitVec.and_self]
    exact congrArg (· &&& _) (sdir_false ..)
  exact List.rel_append (List.rel_append (isPrimitive_mwList rfl) (isPrimitive_mwList hdir)) (isPrimitive_mwList rfl)

/-- A command with primitives runs a plan whose accesses are these. -/
theorem exists_plan_of_widePrimitives {i : Instr} (h : widePrimitives pf i ≠ []) :
    ∃ c : Plan, c.result = .none ∧ List.Forall₂ Access.IsPrimitive c.wide (widePrimitives pf i) ∧
      ∀ s : State, s.profile = pf → exec i s = .next (c.run s) := by
  cases i with
  | prepin => exact ⟨prepinPlan pf, rfl, prepin_isPrimitive hpf hk, fun s hs => hs ▸ rfl⟩
  | drvdata v => exact ⟨drvdataPlan pf v, rfl, drvdata_isPrimitive hpf hk v, fun s hs => hs ▸ rfl⟩
  | setcst bits mask => exact ⟨setcstPlan pf bits mask, rfl, setcst_isPrimitive hpf hk bits mask, fun s hs => hs ▸ rfl⟩
  | setcdir bits mask =>
    exact ⟨setcdirPlan pf bits mask, rfl, setcdir_isPrimitive hpf hk bits mask, fun s hs => hs ▸ rfl⟩
  | rddata => exact absurd rfl h
  | qpin index => exact absurd rfl h
  | rev8 x => exact absurd rfl h
  | xrd id => exact absurd rfl h
  | xwr id v => exact absurd rfl h

end

/-! ## One step -/

/-- The primitives of R53 are masked updates of the 32-bit port, whichever port the access names. -/
theorem wideAccess_mw (s : State) (r : Reg) (p : Nat) (pm pv : Word32) :
    wideAccess s (.mw r p pm pv) = wideMasked r pm pv s := by
  cases r <;> rfl

/-- A masked update does not depend on the value outside the mask. -/
theorem wideMasked_congr {m v v' : Word32} (h : v' &&& m = v &&& m) (r : Reg) (s : State) :
    wideMasked r m v' s = wideMasked r m v s := by
  simp only [wideMasked, Regs.masked, merge_congr h]

/-- Settles O36: the command's access at `USEQ` is the primitive, and it completes at the last. -/
theorem wideCommandsPerformTheirPrimitives : Obligations.WideCommandsPerformTheirPrimitives := by
  intro s i r m v hbuild hk hget
  obtain ⟨hpf, -⟩ := s.buildOk_iff.mp hbuild
  obtain ⟨hlt, hu⟩ := List.getElem?_eq_some_iff.mp hget
  obtain ⟨c, hres, hprimitives, hexec⟩ :=
    exists_plan_of_widePrimitives hpf hk (i := i) (List.ne_nil_of_length_pos (by omega))
  have hlen := hprimitives.length_eq
  obtain ⟨r', m', v₀, v', ha, hu', hval⟩ := hprimitives.get (by omega : s.useq < c.wide.length) hlt
  obtain ⟨rfl, rfl, rfl⟩ : r = r' ∧ m = m' ∧ v = v₀ := by simpa using hu.symm.trans hu'
  have ha : c.wide[s.useq]? = some (.mw r 0 m v') := List.getElem?_eq_some_iff.mpr ⟨by omega, ha⟩
  have hrun : c.run s = (wideMasked r m v s).advance (widePrimitives s.profile i).length 0x00#8 := by
    simp only [c.run_wide hk, runWide, ha, hres, wideAccess_mw, wideMasked_congr hval, hlen, Result.eval]
  refine ⟨_, (hexec s rfl).trans (congrArg _ hrun), ?_, fun r' p b => ?_⟩
  · by_cases hlast : s.useq + 1 = (widePrimitives s.profile i).length
    · rw [State.advance_of_le _ (by simp only [wideMasked_useq]; omega)]
      simp only [if_pos hlast]
      rfl
    · rw [State.advance_of_lt _ (by simp only [wideMasked_useq]; omega)]
      simp only [if_neg hlast]
      rfl
  · obtain ⟨-, hbits⟩ := maskedWriteChangesOnlyMaskedBits
    rw [State.advance_mem, hbits s r r' p b m v hbuild hk]

end Sys2Proof.Machine
end

section
/-! # How many steps a command takes -/

namespace Sys2Proof.Machine

/-- A plan without an access takes one step. -/
theorem Plan.steps_nothing (pf : Profile) : Plan.nothing.steps pf = 1 := by
  cases hk : pf.kind <;> simp [Plan.steps, Plan.nothing, hk]

theorem Plan.steps_native (c : Plan) {pf : Profile} (hk : pf.kind = .native) : c.steps pf = 1 := by
  simp only [Plan.steps, hk]

theorem Plan.steps_wide (c : Plan) {pf : Profile} (hk : pf.kind = .wide) : c.steps pf = max 1 c.wide.length := by
  simp only [Plan.steps, hk]

theorem Plan.steps_remote (c : Plan) {pf : Profile} (hk : pf.kind = .remote) :
    c.steps pf = max 1 (c.narrow.flatMap (Access.xacts pf)).length := by
  simp only [Plan.steps, hk]

theorem Plan.steps_pos (c : Plan) (pf : Profile) : 0 < c.steps pf := by
  cases hk : pf.kind with
  | native => rw [c.steps_native hk]; exact Nat.one_pos
  | wide => rw [c.steps_wide hk]; omega
  | remote => rw [c.steps_remote hk]; omega

/-- Two transactions for each read-modify-write (R161). -/
theorem Plan.steps_of_performs {c : Plan} {pf : Profile} (hk : pf.kind = .remote)
    {us : List (Reg × Nat × Byte × Byte)} (h : List.Forall₂ (Access.Performs pf) c.narrow us) :
    c.steps pf = max 1 (2 * us.length) := by
  have hon : ∀ a ∈ c.narrow, a.IsWriteOn pf :=
    ((List.forall₂_and_left _ _).mp (h.imp fun a u hau => ⟨hau.isWriteOn, hau⟩)).1
  rw [c.steps_remote hk, length_xacts hon, h.length_eq]

/-- QPIN is one read, or none (R210, R211). -/
theorem qpinPlan_steps (pf : Profile) (index : Byte) : (qpinPlan pf index).steps pf = 1 := by
  by_cases h : index.toNat < 8
  · cases hk : pf.kind <;> simp [Plan.steps, hk, qpinPlan, h, Access.xacts]
  · rw [qpinPlan_of_le pf (Nat.not_lt.mp h), Plan.steps_nothing]

theorem commandSteps_native {pf : Profile} (hk : pf.kind = .native) (i : Instr) : commandSteps pf i = 1 := by
  cases i with
  | prepin => exact Plan.steps_native _ hk
  | rddata => exact Plan.steps_native _ hk
  | drvdata v => exact Plan.steps_native _ hk
  | setcst bits mask => exact Plan.steps_native _ hk
  | setcdir bits mask => exact Plan.steps_native _ hk
  | qpin index => exact Plan.steps_native _ hk
  | rev8 x => rfl
  | xrd id => rfl
  | xwr id v => rfl

/-- On REMOTE each access of RDDATA is one transaction (R128). -/
theorem rddataXacts (pf : Profile) : (rddataPlan pf).narrow.flatMap (Access.xacts pf) =
    (aff pf pf.dmap 0xFF#8).map fun p => .sample p (regId pf .out p) := by
  rw [rddataPlan, rddataAccesses, List.flatMap_map, List.map_eq_flatMap]
  rfl

theorem length_flatMap_of_length_eq {α β : Type} {f : α → List β} {k : Nat} (h : ∀ a, (f a).length = k) (l : List α) :
    (l.flatMap f).length = k * l.length := by
  simp [List.length_flatMap, h, Nat.mul_comm]

section
variable {pf : Profile} (hpf : pf.wf = true)
include hpf

theorem commandSteps_wide (hk : pf.kind = .wide) (v bits mask : Byte) :
    commandSteps pf .prepin = 2 ∧ commandSteps pf .rddata = 1 ∧ commandSteps pf (.drvdata v) = 3 ∧
      commandSteps pf (.setcst bits mask) = 1 ∧ 1 ≤ commandSteps pf (.setcdir bits mask) ∧
      commandSteps pf (.setcdir bits mask) ≤ 3 := by
  have hsetcst : (widePrimitives pf (.setcst bits mask)).length ≤ 1 := by
    rw [widePrimitives]; split <;> simp
  have hsetcdir : (widePrimitives pf (.setcdir bits mask)).length ≤ 3 := by
    have hone {u : Reg × Word32 × Word32} {m : Word32} : (if m = 0#32 then [] else [u]).length ≤ 1 := by
      split <;> simp
    simp only [widePrimitives, List.length_append]
    exact Nat.add_le_add (Nat.add_le_add hone hone) hone
  simp only [commandSteps, Plan.steps_wide _ hk, prepinPlan, rddataPlan, drvdataPlan, setcstPlan, setcdirPlan,
    (prepin_isPrimitive hpf hk).length_eq, (drvdata_isPrimitive hpf hk v).length_eq,
    (setcst_isPrimitive hpf hk bits mask).length_eq, (setcdir_isPrimitive hpf hk bits mask).length_eq]
  refine ⟨rfl, ?_, rfl, by omega, by omega, by omega⟩
  rw [rddataAccesses, List.length_map, aff_wide hpf hk (.inl rfl) (by decide)]
  rfl

theorem commandSteps_remote (hk : pf.kind = .remote) (v bits mask : Byte) :
    commandSteps pf .prepin = 4 * (aff pf pf.dmap 0xFF#8).length ∧
      commandSteps pf .rddata = (aff pf pf.dmap 0xFF#8).length ∧
      commandSteps pf (.drvdata v) = 6 * (aff pf pf.dmap 0xFF#8).length ∧
      (mask ≠ 0#8 → commandSteps pf (.setcst bits mask) = 2 * (aff pf pf.cmap mask).length ∧
        commandSteps pf (.setcdir bits mask) = 4 * (aff pf pf.cmap mask).length) := by
  have hdata : 0 < (aff pf pf.dmap 0xFF#8).length := List.length_pos_iff.mpr (aff_ne_nil hpf (.inl rfl) (by decide))
  refine ⟨?_, ?_, ?_, fun hm => ?_⟩
  · rw [commandSteps, Plan.steps_of_performs hk (prepin_performs hpf hk), remoteUpdates,
      length_flatMap_of_length_eq (k := 2) fun _ => rfl]
    omega
  · rw [commandSteps, Plan.steps_remote _ hk, rddataXacts, List.length_map]
    omega
  · rw [commandSteps, Plan.steps_of_performs hk (drvdata_performs hpf hk v), remoteUpdates,
      length_flatMap_of_length_eq (k := 3) fun _ => rfl]
    omega
  · have hcontrol := List.length_pos_iff.mpr (aff_ne_nil hpf (.inr rfl) hm)
    rw [commandSteps, commandSteps, Plan.steps_of_performs hk (setcst_performs hpf hk bits mask),
      Plan.steps_of_performs hk (setcdir_performs hpf hk bits mask), remoteUpdates, remoteUpdates, List.length_map,
      length_flatMap_of_length_eq (k := 2) fun _ => rfl]
    omega

end

/-- Settles O55: each kind counts what its command's plan lists. -/
theorem stepCountsPerKind : Obligations.StepCountsPerKind := by
  intro pf v bits mask index x id hpf
  refine ⟨commandSteps_native, fun hk => commandSteps_wide hpf hk v bits mask,
    fun hk => commandSteps_remote hpf hk v bits mask, ?_, ?_, qpinPlan_steps pf index, rfl, rfl, rfl⟩
  · rw [commandSteps, setcstPlan_zero, Plan.steps_nothing]
  · rw [commandSteps, setcdirPlan_zero, Plan.steps_nothing]

end Sys2Proof.Machine
end

section
/-! # Commands that set latches

DRVDATA and SETCST put a byte on the latches of the lines a mask selects (R182, R200), under one mask per port.
`Latching` is to the latch what `Directing` is to directions and pull-ups; which of the other latch bits survive is a
predicate, since on REMOTE a write copies line levels into those of its port (R209). -/

namespace Sys2Proof.Machine

/-- What such a command is to do: the lines, and the logical byte their latches take. -/
structure Latching where
  map : LineMap
  mask : Byte
  byte : Byte

/-- The latch bits after `m'` are those of `m` with the access performed, but for bits that `K` does not name, of the
port whose latch the access writes, outside its mask. -/
def Access.LandsLatch {w : Nat} (K : Nat → Nat → Prop) (a : Access w) (m m' : Memory) : Prop :=
  ∀ p b : Nat, (K p b ∨ (∀ pm pv, a ≠ .mw .out p pm pv) ∨ (a.writes .out p b).isSome) →
    m'.bit .out p b = (a.writes .out p b).getD (m.bit .out p b)

namespace Latching

/-- The registers are as the command is to leave them: the selected latches set, those of `K` as in `m₀`. -/
structure Settled (l : Latching) (K : Nat → Nat → Prop) (m₀ m : Memory) : Prop where
  set (i : Fin 8) : l.mask.getLsbD i.val = true → m.bit .out l.map[i].port l.map[i].bit = !l.byte.getLsbD i.val
  kept (p b : Nat) : K p b → m.bit .out p b = m₀.bit .out p b

/-- A latch the access writes is that of a port with selected lines, under the mask of all of these, and their bits
are right. -/
def Latches {w : Nat} (l : Latching) (a : Access w) : Prop :=
  ∀ p pm pv, a = .mw .out p pm pv → portSelected l.map l.mask p ∧ pm = smask l.map l.mask p ∧
    ∀ i : Fin 8, l.map[i].port = p → pv.getLsbD l.map[i].bit = !l.byte.getLsbD i.val

/-- The accesses carry out the command: masked writes on the build's ports, each one right, and together they write
the latch of every port with a selected line. -/
structure PlannedBy {w : Nat} (l : Latching) (pf : Profile) (as : List (Access w)) : Prop where
  onPorts (a : Access w) : a ∈ as → a.IsWriteOn pf
  latches (a : Access w) : a ∈ as → l.Latches a
  covers (i : Fin 8) : l.mask.getLsbD i.val = true → ∃ pm pv, Access.mw .out l.map[i].port pm pv ∈ as

/-- From `m₀` to `m` the accesses `as` have taken effect, and the latches of `K` have not changed. -/
structure Progress {w : Nat} (l : Latching) (K : Nat → Nat → Prop) (as : List (Access w)) (m₀ m : Memory) : Prop where
  set (i : Fin 8) (pm pv : BitVec w) : l.mask.getLsbD i.val = true → .mw .out l.map[i].port pm pv ∈ as →
    m.bit .out l.map[i].port l.map[i].bit = !l.byte.getLsbD i.val
  kept (p b : Nat) : K p b → m.bit .out p b = m₀.bit .out p b

/-- Accesses issued port by port over the affected ports carry out the command when those of each port are right and
write its latch. -/
theorem plannedBy_flatMap_aff {l : Latching} {w : Nat} {pf : Profile} {f : Nat → List (Access w)}
    (hports : ∀ i : Fin 8, l.map[i].port ∈ pf.ports)
    (hlatches : ∀ p ∈ aff pf l.map l.mask, ∀ a ∈ f p, (∃ r pm pv, a = .mw r p pm pv) ∧ l.Latches a)
    (hcovers : ∀ p ∈ aff pf l.map l.mask, ∃ pm pv, Access.mw .out p pm pv ∈ f p) :
    l.PlannedBy pf ((aff pf l.map l.mask).flatMap f) where
  onPorts a ha := by
    obtain ⟨p, hp, ha⟩ := List.mem_flatMap.mp ha
    obtain ⟨⟨r, pm, pv, rfl⟩, -⟩ := hlatches p hp a ha
    exact ⟨r, p, pm, pv, rfl, ((mem_aff ..).mp hp).1⟩
  latches a ha := by
    obtain ⟨p, hp, ha⟩ := List.mem_flatMap.mp ha
    exact (hlatches p hp a ha).2
  covers i hi := by
    have hp := (mem_aff pf l.map l.mask _).mpr ⟨hports i, i, hi, rfl⟩
    obtain ⟨pm, pv, ha⟩ := hcovers _ hp
    exact ⟨pm, pv, List.mem_flatMap.mpr ⟨_, hp, ha⟩⟩

/-- Directions and pull-ups are no concern of the latches. -/
theorem latches_of_ne_out {w : Nat} (l : Latching) {r : Reg} (hr : r ≠ .out) (p : Nat) (pm pv : BitVec w) :
    l.Latches (.mw r p pm pv) := by
  intro q pm' pv' h
  injection h with h
  exact absurd h hr

/-- The scattered byte is right under the mask of the selected lines (R200). -/
theorem latches_scatter {l : Latching} {w : Nat} (hmap : WellPlaced l.map w) (hpol : ∀ i : Fin 8, l.map[i].pol = true)
    {p : Nat} (hp : portSelected l.map l.mask p) :
    l.Latches (.mw .out p (smask l.map l.mask p : BitVec w) (scatter l.map l.byte p)) := by
  intro q pm pv h
  injection h with _ hq hpm hpv
  subst hq hpm hpv
  refine ⟨hp, rfl, fun i hi => ?_⟩
  subst hi
  rw [hmap.getLsbD_scatter, hpol, Bool.xor_true]

namespace Progress

variable {w : Nat} {l : Latching} {K : Nat → Nat → Prop} {pf : Profile} {as : List (Access w)} {m₀ m m' : Memory}

theorem nil (l : Latching) (K : Nat → Nat → Prop) (m₀ : Memory) : l.Progress K ([] : List (Access w)) m₀ m₀ where
  set := nofun
  kept _ _ _ := rfl

/-- One more access that is right takes effect: latches that were set stay set. -/
theorem snoc (hmap : WellPlaced l.map w) (hK : ∀ p b, K p b → ¬selected l.map l.mask p b) (h : l.Progress K as m₀ m)
    {a : Access w} (hlatches : l.Latches a) (hlands : a.LandsLatch K m m') : l.Progress K (as ++ [a]) m₀ m' where
  set i pm pv hi hmem := by
    by_cases ha : ∃ pm' pv', a = .mw .out l.map[i].port pm' pv'
    · obtain ⟨pm', pv', rfl⟩ := ha
      obtain ⟨-, rfl, hv⟩ := hlatches _ _ _ rfl
      have hwrites : (Access.mw .out l.map[i].port (smask l.map l.mask l.map[i].port) pv').writes .out l.map[i].port
          l.map[i].bit = some (!l.byte.getLsbD i.val) :=
        Access.writes_mw_eq_some.mpr ⟨⟨rfl, rfl, (hmap.getLsbD_smask ..).trans hi⟩, hv i rfl⟩
      rw [hlands _ _ (.inr (.inr (by rw [hwrites]; rfl))), hwrites]
      rfl
    · have hne : ∀ pm' pv', a ≠ .mw .out l.map[i].port pm' pv' := fun pm' pv' heq => ha ⟨pm', pv', heq⟩
      have hnone : a.writes .out l.map[i].port l.map[i].bit = none := by
        cases a with
        | rd p => rfl
        | mw r p pm' pv' => exact if_neg fun ⟨hr, hp, _⟩ => hne pm' pv' (by rw [hr, hp])
      rw [hlands _ _ (.inr (.inl hne)), hnone]
      rcases List.mem_append.mp hmem with hmem | hmem
      · exact h.set i pm pv hi hmem
      · exact absurd (List.mem_singleton.mp hmem).symm (hne pm pv)
  kept p b hb := by
    rw [hlands p b (.inl hb)]
    cases hw : a.writes .out p b with
    | none => exact h.kept p b hb
    | some v =>
      cases a with
      | rd q => cases hw
      | mw r q pm pv =>
        obtain ⟨⟨rfl, rfl, hpm⟩, -⟩ := Access.writes_mw_eq_some.mp hw
        obtain ⟨-, rfl, -⟩ := hlatches _ _ _ rfl
        exact absurd ((hmap.getLsbD_smask_iff ..).mp hpm) (hK p b hb)

/-- The `k`-th access takes effect after the first `k`. -/
theorem take_succ (hmap : WellPlaced l.map w) (hK : ∀ p b, K p b → ¬selected l.map l.mask p b) {k : Nat}
    (h : l.Progress K (as.take k) m₀ m) {a : Access w} (ha : as[k]? = some a) (hlatches : l.Latches a)
    (hlands : a.LandsLatch K m m') : l.Progress K (as.take (k + 1)) m₀ m' := by
  rw [List.take_add_one, ha]
  exact h.snoc hmap hK hlatches hlands

/-- When all accesses have taken effect the latches are settled. -/
theorem settled (h : l.Progress K as m₀ m) (hplan : l.PlannedBy pf as) : l.Settled K m₀ m where
  set i hi := by
    obtain ⟨pm, pv, ha⟩ := hplan.covers i hi
    exact h.set i pm pv hi ha
  kept := h.kept

/-- Having performed the first `k` accesses is having performed all, when there are no more. -/
theorem settled_of_length_le {k : Nat} (h : l.Progress K (as.take k) m₀ m) (hplan : l.PlannedBy pf as)
    (hk : as.length ≤ k) : l.Settled K m₀ m := by
  rw [List.take_of_length_le hk] at h
  exact h.settled hplan

end Progress

end Latching

/-! ## What one access does to the latches -/

section
variable {s : State} (hbuild : s.buildOk = true) {K : Nat → Nat → Prop}
include hbuild

/-- On NATIVE the access performs the write and changes no other latch. -/
theorem Access.landsLatch_native (hk : s.profile.kind ≠ .wide) {a : Access 8} (ha : a.IsWriteOn s.profile) :
    a.LandsLatch K s.mem (nativeAccess s a).mem := by
  obtain ⟨r, q, pm, pv, rfl, hq⟩ := ha
  obtain ⟨hbits, -⟩ := maskedWriteChangesOnlyMaskedBits
  intro p b _
  rw [nativeAccess, hbits s r .out q p b pm pv hbuild hk hq, Access.writes]
  split <;> rfl

/-- So does the primitive on WIDE. -/
theorem Access.landsLatch_wide (hk : s.profile.kind = .wide) {a : Access 32} (ha : a.IsWriteOn s.profile) :
    a.LandsLatch K s.mem (wideAccess s a).mem := by
  obtain ⟨r, q, pm, pv, rfl, hq⟩ := ha
  obtain ⟨hpf, -⟩ := s.buildOk_iff.mp hbuild
  rw [ports_wide hpf hk, List.mem_singleton] at hq
  subst hq
  obtain ⟨-, hbits⟩ := maskedWriteChangesOnlyMaskedBits
  intro p b _
  rw [wideAccess_mw, hbits s r .out p b pm pv hbuild hk, Access.writes]
  split <;> rfl

/-- On REMOTE the write half does when `T` holds the latches of `K` that it writes back. -/
theorem Access.landsLatch_remote (hk : s.profile.kind = .remote) {r : Reg} {p : Nat} (hp : p ∈ s.profile.ports)
    {pm pv : Byte} (ht : r = .out → ∀ b, K p b → s.t.getLsbD b = s.mem.bit .out p b) :
    (Access.mw r p pm pv).LandsLatch K s.mem (remWrite (regId s.profile r p) (merge s.t pm pv) s).mem := by
  intro q b hcase
  rw [bit_remWrite_regId hbuild hk hp]
  by_cases hreg : .out = r ∧ q = p
  · obtain ⟨rfl, rfl⟩ := hreg
    rw [if_pos ⟨rfl, rfl⟩, getLsbD_merge]
    by_cases hpm : pm.getLsbD b = true
    · simp [Access.writes, hpm]
    · simp only [Access.writes, hpm, and_false, if_false, Option.isSome_none, Bool.false_eq_true, or_false] at hcase ⊢
      rcases hcase with hb | hne
      · exact ht rfl b hb
      · exact absurd rfl (hne pm pv)
  · rw [if_neg hreg, Access.writes, if_neg fun h => hreg ⟨h.1, h.2.1⟩]
    rfl

end

/-! ## Between steps -/

namespace Latching

/-- Between the two transactions of a write of a port's latch, `T` holds the latch bits of `K`. -/
def LatchReady (K : Nat → Nat → Prop) (as : List (Access 8)) (m₀ : Memory) (s : State) : Prop :=
  ∀ (p : Nat) (pm pv : Byte) (b : Nat), s.useq % 2 = 1 → as[s.useq / 2]? = some (.mw .out p pm pv) → K p b →
    s.t.getLsbD b = m₀.bit .out p b

/-- The command is in progress from registers `m₀`, as in `Plan.Midway`. -/
def Midway (l : Latching) (K : Nat → Nat → Prop) (c : Plan) (m₀ : Memory) (s : State) : Prop :=
  match s.profile.kind with
  | .native => l.Progress K ([] : List (Access 8)) m₀ s.mem
  | .wide => l.Progress K (c.wide.take s.useq) m₀ s.mem
  | .remote => l.Progress K (c.narrow.take (s.useq / 2)) m₀ s.mem ∧ LatchReady K c.narrow m₀ s

/-- The plan carries out the command on every kind of build, on which the map's lines are placed. -/
structure Plans (l : Latching) (pf : Profile) (c : Plan) : Prop where
  narrow : pf.kind ≠ .wide → l.PlannedBy pf c.narrow
  wide : pf.kind = .wide → l.PlannedBy pf c.wide
  placed {w : Nat} : Config.width pf.kind ≤ w → WellPlaced l.map w

/-- After a step of the command it is still midway, or it has completed and its latches are settled. -/
structure StepsTo (l : Latching) (K : Nat → Nat → Prop) (c : Plan) (m₀ : Memory) (t : State) : Prop where
  midway : t.active = true → l.Midway K c m₀ t
  settled : t.active = false → l.Settled K m₀ t.mem

section
variable {l : Latching} {K : Nat → Nat → Prop} {c : Plan} {m₀ : Memory} {s t : State}

theorem midway_native (hk : s.profile.kind = .native) :
    l.Midway K c m₀ s ↔ l.Progress K ([] : List (Access 8)) m₀ s.mem := by
  simp only [Midway, hk]

theorem midway_wide (hk : s.profile.kind = .wide) :
    l.Midway K c m₀ s ↔ l.Progress K (c.wide.take s.useq) m₀ s.mem := by
  simp only [Midway, hk]

theorem midway_remote (hk : s.profile.kind = .remote) :
    l.Midway K c m₀ s ↔ l.Progress K (c.narrow.take (s.useq / 2)) m₀ s.mem ∧ LatchReady K c.narrow m₀ s := by
  simp only [Midway, hk]

/-- The environment's inputs do not say how far a command has come. -/
theorem Midway.withEnv (h : l.Midway K c m₀ s) (e : Env) : l.Midway K c m₀ { s with env := e } := h

/-- A command is midway when it begins. -/
theorem midway_begin (huseq : s.useq = 0) : l.Midway K c s.mem s := by
  cases hk : s.profile.kind with
  | native => exact (midway_native hk).mpr (.nil ..)
  | wide => rw [midway_wide hk, huseq]; exact .nil ..
  | remote =>
    rw [midway_remote hk, huseq]
    exact ⟨.nil .., fun p pm pv b hodd => by rw [huseq] at hodd; cases hodd⟩

end

/-! ## The step, by kind -/

/-- Performing accesses one after another on NATIVE. -/
theorem Progress.foldl_nativeAccess {l : Latching} {K : Nat → Nat → Prop} {pf : Profile} {m₀ : Memory}
    (hk : pf.kind ≠ .wide) (hmap : WellPlaced l.map 8) (hK : ∀ p b, K p b → ¬selected l.map l.mask p b)
    {as : List (Access 8)} (has : ∀ a ∈ as, a.IsWriteOn pf ∧ l.Latches a) :
    ∀ {done : List (Access 8)} {s : State}, s.profile = pf → s.buildOk = true → l.Progress K done m₀ s.mem →
      l.Progress K (done ++ as) m₀ (as.foldl nativeAccess s).mem := by
  induction as with
  | nil => intro done s _ _ h; simpa using h
  | cons a as ih =>
    rintro done s rfl hbuild h
    obtain ⟨hon, hlatches⟩ := has a (List.mem_cons_self ..)
    have hkeep := MainKeeps.nativeAccess s a
    have hbuild' : (nativeAccess s a).buildOk = true := by
      rw [State.buildOk, hkeep.profile, hkeep.memFits]
      exact hbuild
    rw [List.foldl_cons, List.append_cons]
    exact ih (fun c hc => has c (List.mem_cons_of_mem _ hc)) hkeep.profile hbuild'
      (h.snoc hmap hK hlatches (Access.landsLatch_native hbuild hk hon))

section
variable {l : Latching} {K : Nat → Nat → Prop} {c : Plan} {m₀ : Memory} {s : State} (hbuild : s.buildOk = true)
  (hplan : l.Plans s.profile c) (hK : ∀ p b, K p b → ¬selected l.map l.mask p b) (h : l.Midway K c m₀ s)
include hbuild hplan hK h

/-- On NATIVE the one step performs every access. -/
theorem stepsTo_native (hk : s.profile.kind = .native) : l.StepsTo K c m₀ (c.run s) := by
  have hnarrow : l.PlannedBy s.profile c.narrow := hplan.narrow (by simp [hk])
  have hall := Progress.foldl_nativeAccess (by simp [hk]) (hplan.placed (by simp [hk, Config.width])) hK
    (fun a ha => ⟨hnarrow.onPorts a ha, hnarrow.latches a ha⟩) rfl hbuild ((midway_native hk).mp h)
  rw [c.run_native hk]
  exact ⟨nofun, fun _ => hall.settled hnarrow⟩

/-- On WIDE a step performs the next primitive. -/
theorem stepsTo_wide (hact : s.active = true) (hk : s.profile.kind = .wide) : l.StepsTo K c m₀ (c.run s) := by
  have hwide : l.PlannedBy s.profile c.wide := hplan.wide hk
  have hprogress := (midway_wide hk).mp h
  rw [c.run_wide hk, runWide]
  cases ha : c.wide[s.useq]? with
  | none => exact ⟨nofun, fun _ => hprogress.settled_of_length_le hwide (List.getElem?_eq_none_iff.mp ha)⟩
  | some a =>
    have hkeep := MainKeeps.wideAccess s a
    have hmem := List.mem_of_getElem? ha
    have hnext := hprogress.take_succ (hplan.placed (width_wide _)) hK ha (hwide.latches a hmem)
      (Access.landsLatch_wide hbuild hk (hwide.onPorts a hmem))
    refine ⟨fun _ => (midway_wide ?_).mpr ?_, fun hdone => ?_⟩
    · simpa [hkeep.profile] using hk
    · simpa using hnext
    · refine Progress.settled_of_length_le (k := s.useq + 1) (by simpa using hnext) hwide ?_
      simpa using State.le_of_advance_done (by simpa using hact) hdone

omit hK in
/-- On REMOTE the read half of a latch's update finds the latches of `K` on their lines. -/
theorem stepsTo_readT (hact : s.active = true) (hk : s.profile.kind = .remote) (hserves : s.linkServes)
    (hlevel : ∀ p b, portSelected l.map l.mask p → K p b → s.uncontended s.env p b) {r : Reg} {p : Nat}
    {pm pv : Byte} (heven : s.useq % 2 = 0) (ha : c.narrow[s.useq / 2]? = some (.mw r p pm pv)) {xs : List Xact}
    (hx : xs[s.useq]? = some (.readT (regId s.profile r p))) (hlen : s.useq + 1 < xs.length) :
    l.StepsTo K c m₀ (runRemote xs c.result s) := by
  obtain ⟨-, hfits⟩ := s.buildOk_iff.mp hbuild
  obtain ⟨hprogress, -⟩ := (midway_remote hk).mp h
  have hnarrow : l.PlannedBy s.profile c.narrow := hplan.narrow (by simp [hk])
  have hhalf : (s.useq + 1) / 2 = s.useq / 2 := by omega
  rw [runRemote_readT hserves hx _ hlen]
  refine ⟨fun _ => (midway_remote (by exact hk)).mpr ⟨by simpa only [hhalf] using hprogress, ?_⟩,
    fun hdone => absurd (hact.symm.trans hdone) nofun⟩
  intro p' pm' pv' b _ hget hb
  simp only [hhalf, ha, Option.some.injEq, Access.mw.injEq] at hget
  obtain ⟨rfl, rfl, rfl, rfl⟩ := hget
  have hmem := List.mem_of_getElem? ha
  obtain ⟨r', q, pm', pv', heq, hp⟩ := hnarrow.onPorts _ hmem
  injection heq with _ hq
  subst hq
  obtain ⟨hsel, -⟩ := hnarrow.latches _ hmem _ _ _ rfl
  rw [← hprogress.kept p b hb]
  by_cases hb8 : b < 8
  · exact getLsbD_remRead_regId_out hbuild hk hp hb8 (hlevel p b hsel hb).definiteLevel
  · rw [Memory.bit_eq_port8 hfits (by simp [hk]), BitVec.getLsbD_of_ge _ _ (by omega),
      BitVec.getLsbD_of_ge _ _ (by omega)]

/-- On REMOTE the write half performs the access. -/
theorem stepsTo_writeT (hact : s.active = true) (hk : s.profile.kind = .remote) (hserves : s.linkServes) {r : Reg}
    {p : Nat} {pm pv : Byte} (hodd : s.useq % 2 = 1) (ha : c.narrow[s.useq / 2]? = some (.mw r p pm pv))
    (hp : p ∈ s.profile.ports) {xs : List Xact} (hx : xs[s.useq]? = some (.writeT (regId s.profile r p) pm pv))
    (hlen : xs.length = 2 * c.narrow.length) : l.StepsTo K c m₀ (runRemote xs .none s) := by
  obtain ⟨hprogress, hready⟩ := (midway_remote hk).mp h
  have hnarrow : l.PlannedBy s.profile c.narrow := hplan.narrow (by simp [hk])
  have ht : r = .out → ∀ b, K p b → s.t.getLsbD b = s.mem.bit .out p b := by
    rintro rfl b hb
    rw [hready p pm pv b hodd ha hb, hprogress.kept p b hb]
  have hnext := hprogress.take_succ (hplan.placed (by simp [hk, Config.width])) hK ha
    (hnarrow.latches _ (List.mem_of_getElem? ha)) (Access.landsLatch_remote hbuild hk hp ht)
  have hhalf : (s.useq + 1) / 2 = s.useq / 2 + 1 := by omega
  rw [runRemote_writeT hserves hx]
  refine ⟨fun _ => (midway_remote (by simpa using hk)).mpr ⟨by simpa [hhalf] using hnext, ?_⟩, fun hdone => ?_⟩
  · intro p' pm' pv' b hodd'
    simp only [State.advance_useq] at hodd'
    omega
  · refine Progress.settled_of_length_le (k := s.useq / 2 + 1) (by simpa using hnext) hnarrow ?_
    have hlast := State.le_of_advance_done (by exact hact) hdone
    simp only at hlast
    omega

/-- One step of the command with the link serving MAIN, on any kind of build. -/
theorem stepsTo (hres : c.result = .none) (hact : s.active = true) (hserves : s.linkServes)
    (hlevel : s.profile.kind = .remote → ∀ p b, portSelected l.map l.mask p → K p b → s.uncontended s.env p b) :
    l.StepsTo K c m₀ (c.run s) := by
  cases hk : s.profile.kind with
  | native => exact stepsTo_native hbuild hplan hK h hk
  | wide => exact stepsTo_wide hbuild hplan hK h hact hk
  | remote =>
    have hnarrow : l.PlannedBy s.profile c.narrow := hplan.narrow (by simp [hk])
    have hlen := length_xacts hnarrow.onPorts
    rw [c.run_remote hk]
    cases hx : (c.narrow.flatMap (Access.xacts s.profile))[s.useq]? with
    | none =>
      obtain ⟨hprogress, -⟩ := (midway_remote hk).mp h
      have hle := List.getElem?_eq_none_iff.mp hx
      rw [runRemote, hx]
      exact ⟨nofun, fun _ => hprogress.settled_of_length_le hnarrow (by omega)⟩
    | some x =>
      have hx' := hx
      rw [getElem?_xacts hnarrow.onPorts, Option.bind_eq_some_iff] at hx'
      obtain ⟨a, ha, hxa⟩ := hx'
      obtain ⟨r, p, pm, pv, rfl, hp⟩ := hnarrow.onPorts a (List.mem_of_getElem? ha)
      obtain ⟨hlt, -⟩ := List.getElem?_eq_some_iff.mp ha
      rcases Nat.mod_two_eq_zero_or_one s.useq with heven | hodd
      · rw [heven] at hxa
        cases hxa
        exact stepsTo_readT hbuild hplan h hact hk hserves (hlevel hk) heven ha hx (by omega)
      · rw [hodd] at hxa
        cases hxa
        rw [hres]
        exact stepsTo_writeT hbuild hplan hK h hact hk hserves hodd ha hp hx hlen

end

end Latching

end Sys2Proof.Machine
end

section
/-! # A command's run while the device responds

`Reached` names the states of a run: the one in which the command has just been accepted, and those its steps lead to
under the run's environment inputs. What holds of every run is proved by induction on it. -/

namespace Sys2Proof.Machine

/-! ## One step that nothing makes wait -/

@[simp] theorem Xact.keep_useq (x : Xact) (rx : Byte) (s : State) : (x.keep rx s).useq = s.useq := by
  cases x <;> rfl

@[simp] theorem Xact.keep_sspc (x : Xact) (rx : Byte) (s : State) : (x.keep rx s).sspc = s.sspc := by
  cases x <;> rfl

/-- A transaction that has completed leaves the link free (R152). -/
theorem Xact.after_busy (x : Xact) (s : State) : (x.after s).sspc.busy = false := by
  rw [Xact.after, Xact.keep_sspc]
  rfl

/-- After a step that nothing makes wait the command is one micro-operation further, or it has completed with its
last; and the link is free. -/
structure Plan.Advances (c : Plan) (s t : State) : Prop where
  active : t.active = decide (s.useq + 1 < c.steps s.profile)
  useq : t.active = true → t.useq = s.useq + 1
  busy : t.sspc.busy = false

theorem Plan.advances (c : Plan) {s : State} (hact : s.active = true) (hfree : s.sspc.busy = false)
    (hresp : s.env.response = .completes) : c.Advances s (c.run s) := by
  cases hk : s.profile.kind with
  | native =>
    rw [c.run_native hk]
    exact ⟨by simp [c.steps_native hk], nofun, by simp [runNative, hfree]⟩
  | wide =>
    rw [c.run_wide hk, runWide]
    split
    · rename_i hnone
      have hle := List.getElem?_eq_none_iff.mp hnone
      refine ⟨?_, nofun, hfree⟩
      rw [c.steps_wide hk, State.complete_active, decide_eq_false (by omega)]
    · rename_i a ha
      obtain ⟨hlt, -⟩ := List.getElem?_eq_some_iff.mp ha
      refine ⟨?_, by simp, by simp [hfree]⟩
      rw [c.steps_wide hk, State.advance_active, wideAccess_active, wideAccess_useq, hact, Bool.true_and,
        Nat.max_eq_right (by omega)]
  | remote =>
    rw [c.run_remote hk]
    cases hx : (c.narrow.flatMap (Access.xacts s.profile))[s.useq]? with
    | none =>
      have hle := List.getElem?_eq_none_iff.mp hx
      rw [runRemote, hx]
      refine ⟨?_, nofun, hfree⟩
      rw [c.steps_remote hk, State.complete_active, decide_eq_false (by omega)]
    | some x =>
      obtain ⟨hlt, -⟩ := List.getElem?_eq_some_iff.mp hx
      have hserves : s.linkServes := ⟨fun hbusy => absurd (hfree.symm.trans hbusy) nofun, hresp⟩
      rw [runRemote_of_linkServes hserves hx]
      refine ⟨?_, by simp [Xact.after], by rw [State.advance_sspc, x.after_busy]⟩
      rw [c.steps_remote hk, State.advance_active, Nat.max_eq_right (by omega)]
      simp [Xact.after, hact]

/-! ## The states of a run -/

/-- The state as the environment's inputs of a step find it. -/
def State.withEnv (s : State) (e : Env) : State := { s with env := e }

@[simp] theorem State.withEnv_profile (s : State) (e : Env) : (s.withEnv e).profile = s.profile := rfl
@[simp] theorem State.withEnv_mem (s : State) (e : Env) : (s.withEnv e).mem = s.mem := rfl
@[simp] theorem State.withEnv_active (s : State) (e : Env) : (s.withEnv e).active = s.active := rfl
@[simp] theorem State.withEnv_useq (s : State) (e : Env) : (s.withEnv e).useq = s.useq := rfl
@[simp] theorem State.withEnv_t (s : State) (e : Env) : (s.withEnv e).t = s.t := rfl
@[simp] theorem State.withEnv_samples (s : State) (e : Env) : (s.withEnv e).samples = s.samples := rfl
@[simp] theorem State.withEnv_sspc (s : State) (e : Env) : (s.withEnv e).sspc = s.sspc := rfl
@[simp] theorem State.withEnv_env (s : State) (e : Env) : (s.withEnv e).env = e := rfl

theorem runCommand_of_exec {i : Instr} {e : Env} {s t : State} (h : exec i (s.withEnv e) = .next t) (es : List Env) :
    runCommand i (e :: es) s = if t.active = true then runCommand i es t else .next t := by
  rw [State.withEnv] at h
  simp only [runCommand, h]

theorem State.ready_iff (s : State) :
    s.ready = true ↔ s.buildOk = true ∧ s.active = true ∧ s.useq = 0 ∧ s.sspc.busy = false := by
  simp [State.ready, and_assoc]

theorem response_of_allComplete {es : List Env} (h : allComplete es = true) {e : Env} (he : e ∈ es) :
    e.response = .completes := by
  simpa using List.all_eq_true.mp h e he

/-- The states a command of plan `c`, accepted in `s₀`, comes through while the environment's inputs are of `es`. -/
inductive Reached (c : Plan) (es : List Env) (s₀ : State) : State → Prop where
  | start : Reached c es s₀ s₀
  | step {s : State} {e : Env} : Reached c es s₀ s → s.active = true → e ∈ es → Reached c es s₀ (c.run (s.withEnv e))

namespace Reached

section
variable {c : Plan} {es : List Env} {s₀ s : State}

theorem profile (h : Reached c es s₀ s) : s.profile = s₀.profile := by
  induction h with
  | start => rfl
  | step _ _ _ ih => exact (MainKeeps.plan c _).profile.trans ih

variable (hready : s₀.ready = true)
include hready

theorem buildOk (h : Reached c es s₀ s) : s.buildOk = true := by
  induction h with
  | start => exact ((State.ready_iff _).mp hready).1
  | @step s e _ _ _ ih =>
    have hkeep := MainKeeps.plan c (s.withEnv e)
    rw [State.buildOk, hkeep.profile, hkeep.memFits]
    exact ih

variable (hresp : allComplete es = true)
include hresp

/-- The link is free between steps. -/
theorem busy (h : Reached c es s₀ s) : s.sspc.busy = false := by
  induction h with
  | start =>
    obtain ⟨-, -, -, hfree⟩ := (State.ready_iff _).mp hready
    exact hfree
  | @step s e _ hact he ih => exact (c.advances (s := s.withEnv e) hact ih (response_of_allComplete hresp he)).busy

/-- So every step finds it free and the device responding. -/
theorem linkServes (h : Reached c es s₀ s) {e : Env} (he : e ∈ es) : (s.withEnv e).linkServes :=
  ⟨fun hbusy => absurd ((h.busy hready hresp).symm.trans hbusy) nofun, response_of_allComplete hresp he⟩

/-- A command that has not completed has a micro-operation left. -/
theorem useq_lt (h : Reached c es s₀ s) (hact : s.active = true) : s.useq < c.steps s₀.profile := by
  cases h with
  | start =>
    obtain ⟨-, -, huseq, -⟩ := (State.ready_iff _).mp hready
    rw [huseq]
    exact c.steps_pos _
  | @step s e hs hact' he =>
    have hfree := hs.busy hready hresp
    obtain ⟨hactive, huseq, -⟩ := c.advances (s := s.withEnv e) hact' hfree (response_of_allComplete hresp he)
    rw [hact, eq_comm, decide_eq_true_eq, State.withEnv_profile, hs.profile] at hactive
    rwa [huseq hact]

/-- After as many steps as are left the command has completed. -/
theorem exists_run_from {i : Instr} (hexec : ∀ s : State, s.profile = s₀.profile → exec i s = .next (c.run s))
    (es' : List Env) (hsub : es' ⊆ es) (h : Reached c es s₀ s) (hact : s.active = true)
    (hlen : s.useq + es'.length = c.steps s₀.profile) :
    ∃ t, runCommand i es' s = .next t ∧ t.active = false ∧ Reached c es s₀ t := by
  induction es' generalizing s with
  | nil => exact absurd hlen (Nat.ne_of_lt (h.useq_lt hready hresp hact))
  | cons e es' ih =>
    have he := hsub (List.mem_cons_self ..)
    have hnext : Reached c es s₀ (c.run (s.withEnv e)) := .step h hact he
    have hfree := h.busy hready hresp
    obtain ⟨-, huseq, -⟩ := c.advances (s := s.withEnv e) hact hfree (response_of_allComplete hresp he)
    rw [runCommand_of_exec (hexec (s.withEnv e) h.profile)]
    cases hgoing : (c.run (s.withEnv e)).active with
    | false => exact ⟨_, rfl, hgoing, hnext⟩
    | true =>
      have huseq := huseq hgoing
      rw [State.withEnv_useq] at huseq
      rw [List.length_cons] at hlen
      exact ih (fun _ hmem => hsub (List.mem_cons_of_mem _ hmem)) hnext hgoing (by omega)

/-- The run of a command from the state in which it has just been accepted. -/
theorem exists_run {i : Instr} (hexec : ∀ s : State, s.profile = s₀.profile → exec i s = .next (c.run s))
    (hlen : es.length = c.steps s₀.profile) :
    ∃ t, runCommand i es s₀ = .next t ∧ t.active = false ∧ Reached c es s₀ t := by
  obtain ⟨-, hact, huseq, -⟩ := (State.ready_iff _).mp hready
  exact exists_run_from hready hresp hexec es (List.Subset.refl _) .start hact (by omega)

end

/-! ## What holds along a run -/

section
variable {c : Plan} {es : List Env} {s₀ s : State} (hready : s₀.ready = true) (h : Reached c es s₀ s)
include hready h

/-- A command that sets directions comes ever further. -/
theorem stepsTo {g : Directing} (hplan : g.Plans s₀.profile c) : c.StepsTo g s₀.mem s := by
  obtain ⟨-, hact₀, huseq, -⟩ := (State.ready_iff _).mp hready
  induction h with
  | start => exact ⟨fun _ => Plan.midway_begin huseq, fun hdone => absurd (hact₀.symm.trans hdone) nofun⟩
  | @step s e hs hact _ ih =>
    have hplan : g.Plans (s.withEnv e).profile c := hs.profile ▸ hplan
    have hbuild := hs.buildOk hready
    exact Plan.stepsTo hbuild hplan (Plan.midway_congr (ih.midway hact) rfl rfl rfl rfl) hact

/-- A register that the plan spares keeps every bit. -/
theorem bit_of_spares {r : Reg} (hspares : c.Spares s₀.profile r) (p b : Nat) : s.mem.bit r p b = s₀.mem.bit r p b := by
  induction h with
  | start => rfl
  | @step s e hs _ _ ih =>
    have hspares : c.Spares (s.withEnv e).profile r := hs.profile ▸ hspares
    have hbuild := hs.buildOk hready
    exact (Plan.bit_run_of_spares (s := s.withEnv e) hbuild hspares p b).trans ih

/-- A command with no return value completes with 0x00 (R84). -/
theorem res_of_done (hres : c.result = .none) (hdone : s.active = false) : s.res = 0x00#8 := by
  obtain ⟨-, hact₀, -, -⟩ := (State.ready_iff _).mp hready
  cases h with
  | start => exact absurd (hact₀.symm.trans hdone) nofun
  | @step s e _ hact _ => exact Plan.res_run_of_done (s := s.withEnv e) hres hact hdone

end

end Reached

/-! ## PREPIN -/

/-- PREPIN writes no latch (R180). -/
theorem prepinPlan_spares_out (pf : Profile) : (prepinPlan pf).Spares pf .out := by
  have hspares {w : Nat} {a : Access w} (ha : a ∈ prepinAccesses w pf) : a.Spares pf .out := by
    simp only [prepinAccesses, List.mem_flatMap, List.mem_append, mem_mwList] at ha
    obtain ⟨p, hp, ⟨-, rfl⟩ | ⟨-, rfl⟩⟩ := ha <;> exact ⟨nofun, ((mem_aff ..).mp hp).1⟩
  exact ⟨fun _ _ => hspares, fun _ _ => hspares⟩

theorem exec_prepin {pf : Profile} (s : State) (h : s.profile = pf) : exec .prepin s = .next ((prepinPlan pf).run s) :=
  h ▸ rfl

/-- Settles O47: PREPIN's plan carries out its directions and spares the latches. -/
theorem prepinNetEffect : Obligations.PrepinNetEffect := by
  intro s es hready hresp hlen
  obtain ⟨hbuild, -, -, -⟩ := s.ready_iff.mp hready
  obtain ⟨hpf, -⟩ := s.buildOk_iff.mp hbuild
  have hplan := prepin_plans hpf
  obtain ⟨t, hrun, hdone, h⟩ := Reached.exists_run hready hresp exec_prepin hlen
  exact ⟨t, hrun, hdone, h.res_of_done hready rfl hdone,
    ((h.stepsTo hready hplan).settled hdone).setsDirections hplan.inv_eq,
    h.bit_of_spares hready (prepinPlan_spares_out _)⟩

/-! ## DRVDATA -/

/-- An uncontended output stays one while its direction and its latch are kept. -/
theorem State.uncontended.congr {s s' : State} {e : Env} {p b : Nat} (h : s.uncontended e p b)
    (hprofile : s'.profile = s.profile) (hdir : s'.mem.bit .dir p b = s.mem.bit .dir p b)
    (hout : s'.mem.bit .out p b = s.mem.bit .out p b) : s'.uncontended e p b := by
  simpa only [State.uncontended, State.outputLine, hprofile, hdir, hout] using h


/-- The latch bits that survive a command with the environment's inputs `es` (R182, R200, R209). -/
def Latching.Spared (l : Latching) (es : List Env) (s₀ : State) (p b : Nat) : Prop :=
  ¬selected l.map l.mask p b ∧
    (s₀.profile.kind = .remote → ¬portSelected l.map l.mask p ∨ ∀ e ∈ es, s₀.uncontended e p b)

namespace Latching.Settled

variable {l : Latching} {es : List Env} {s t : State} (h : l.Settled (l.Spared es s) s.mem t.mem)
include h

theorem setsLatches : setsLatches l.map l.mask l.byte t := h.set

theorem keepsOtherLatches (hk : s.profile.kind ≠ .remote) : keepsOtherLatches l.map l.mask s t :=
  fun p b hb => h.kept p b ⟨hb, fun hremote => absurd hremote hk⟩

theorem keepsOutputLatches : keepsOutputLatches l.map l.mask es s t :=
  fun p b hb hcase => h.kept p b ⟨hb, fun _ => hcase⟩

end Latching.Settled

/-- However far the command has come, the latches of `K` are as they were. -/
theorem Latching.Midway.kept {l : Latching} {K : Nat → Nat → Prop} {c : Plan} {m₀ : Memory} {s : State}
    (h : l.Midway K c m₀ s) {p b : Nat} (hb : K p b) : s.mem.bit .out p b = m₀.bit .out p b := by
  cases hk : s.profile.kind with
  | native => exact ((midway_native hk).mp h).kept p b hb
  | wide => exact ((midway_wide hk).mp h).kept p b hb
  | remote => exact ((midway_remote hk).mp h).1.kept p b hb

/-- And the direction and pull-up bits that it does not select. -/
theorem Plan.Midway.kept {g : Directing} {c : Plan} {m₀ : Memory} {s : State} (h : c.Midway g m₀ s) {r : Reg}
    {p b : Nat} (hr : r ≠ .out) (hb : ¬selected g.map g.mask p b) : s.mem.bit r p b = m₀.bit r p b := by
  cases hk : s.profile.kind with
  | native => exact ((midway_native hk).mp h).kept r p b hr hb
  | wide => exact ((midway_wide hk).mp h).kept r p b hr hb
  | remote => exact ((midway_remote hk).mp h).1.kept r p b hr hb

/-- A command that sets latches comes ever further, if it keeps the directions of the lines it does not select: then
on REMOTE the latches to survive are on their lines when they are read. -/
theorem Reached.latchStepsTo {c : Plan} {es : List Env} {s₀ s : State} {l : Latching} (hready : s₀.ready = true)
    (hresp : allComplete es = true) (hres : c.result = .none) (hplan : l.Plans s₀.profile c)
    (hdir : ∀ s, Reached c es s₀ s → s.active = true → ∀ p b, ¬selected l.map l.mask p b →
      s.mem.bit .dir p b = s₀.mem.bit .dir p b)
    (h : Reached c es s₀ s) : l.StepsTo (l.Spared es s₀) c s₀.mem s := by
  obtain ⟨-, hact₀, huseq, -⟩ := (State.ready_iff _).mp hready
  induction h with
  | start => exact ⟨fun _ => Latching.midway_begin huseq, fun hdone => absurd (hact₀.symm.trans hdone) nofun⟩
  | @step s e hs hact he ih =>
    have hmidway := ih.midway hact
    have hplan : l.Plans (s.withEnv e).profile c := hs.profile ▸ hplan
    have hbuild := hs.buildOk hready
    refine Latching.stepsTo hbuild hplan (fun p b hb => hb.1) (hmidway.withEnv e) hres hact
      (hs.linkServes hready hresp he) fun hk p b hp hb => ?_
    obtain ⟨hmiss, hremote⟩ := hb
    rcases hremote (hs.profile ▸ hk) with hnone | huncontended
    · exact absurd hp hnone
    · exact (huncontended e he).congr hs.profile (hdir s hs hact p b hmiss) (hmidway.kept ⟨hmiss, hremote⟩)

/-- DRVDATA: the byte on the latches of the data lines (R182). -/
def drvdataLatching (pf : Profile) (v : Byte) : Latching := ⟨pf.dmap, 0xFF#8, v⟩

theorem latchedBy_drvdata {pf : Profile} (hpf : pf.wf = true) {w : Nat} (v : Byte) (hw : Config.width pf.kind ≤ w) :
    (drvdataLatching pf v).PlannedBy pf (drvdataAccesses w pf v) := by
  have hmap : WellPlaced (drvdataLatching pf v).map w := wellPlaced_dmap hpf hw
  refine Latching.plannedBy_flatMap_aff (l := drvdataLatching pf v)
    (fun i => (wf_line hpf (mem_lines_dmap pf i)).1) (fun p hp a ha => ?_) fun p hp => ?_
  · simp only [List.mem_append, mem_mwList] at ha
    rcases ha with (⟨-, rfl⟩ | ⟨-, rfl⟩) | ⟨-, rfl⟩
    · exact ⟨⟨_, _, _, rfl⟩, Latching.latches_of_ne_out (r := .pue) _ nofun p _ _⟩
    · exact ⟨⟨_, _, _, rfl⟩, Latching.latches_of_ne_out (r := .dir) _ nofun p _ _⟩
    · exact ⟨⟨_, _, _, rfl⟩, Latching.latches_scatter hmap (wf_map_pol hpf (.inl rfl)) ((mem_aff ..).mp hp).2⟩
  · exact ⟨_, _, List.mem_append_right _ (mem_mwList.mpr ⟨(hmap.smask_ne_zero_iff ..).mpr ((mem_aff ..).mp hp).2, rfl⟩)⟩

theorem drvdata_latches {pf : Profile} (hpf : pf.wf = true) (v : Byte) :
    (drvdataLatching pf v).Plans pf (drvdataPlan pf v) where
  narrow hk := latchedBy_drvdata hpf v (width_narrow hk)
  wide _ := latchedBy_drvdata hpf v (width_wide _)
  placed := wellPlaced_dmap hpf

theorem exec_drvdata {pf : Profile} (v : Byte) (s : State) (h : s.profile = pf) :
    exec (.drvdata v) s = .next ((drvdataPlan pf v).run s) :=
  h ▸ rfl

/-- Settles O48: DRVDATA's plan carries out its directions, and with the other directions kept its latches. -/
theorem drvdataNetEffect : Obligations.DrvdataNetEffect := by
  intro s v es hready hresp hlen
  obtain ⟨hbuild, -, -, -⟩ := s.ready_iff.mp hready
  obtain ⟨hpf, -⟩ := s.buildOk_iff.mp hbuild
  have hplan := drvdata_plans hpf v
  obtain ⟨t, hrun, hdone, h⟩ := Reached.exists_run hready hresp (exec_drvdata v) hlen
  have hlatches : (drvdataLatching s.profile v).Settled ((drvdataLatching s.profile v).Spared es s) s.mem t.mem :=
    (h.latchStepsTo hready hresp rfl (drvdata_latches hpf v) fun u hu hact p b hb =>
      ((hu.stepsTo hready hplan).midway hact).kept nofun hb).settled hdone
  exact ⟨t, hrun, hdone, h.res_of_done hready rfl hdone,
    ((h.stepsTo hready hplan).settled hdone).setsDirections hplan.inv_eq, hlatches.setsLatches,
    hlatches.keepsOtherLatches, fun _ => hlatches.keepsOutputLatches⟩

/-! ## The one step on NATIVE -/

/-- Masked writes change registers and nothing else. -/
theorem foldl_nativeAccess_writes {pf : Profile} {as : List (Access 8)} (has : ∀ a ∈ as, a.IsWriteOn pf) (s : State) :
    as.foldl nativeAccess s = { s with mem := (as.foldl nativeAccess s).mem } := by
  induction as generalizing s with
  | nil => rfl
  | cons a as ih =>
    obtain ⟨r, p, pm, pv, rfl, -⟩ := has a (List.mem_cons_self ..)
    rw [List.foldl_cons, ih (fun c hc => has c (List.mem_cons_of_mem _ hc))]
    rfl

/-- A command of masked writes with no return value, in its one step. -/
theorem Plan.run_native_writes {c : Plan} {s : State} (hk : s.profile.kind = .native) (hres : c.result = .none)
    (has : ∀ a ∈ c.narrow, a.IsWriteOn s.profile) :
    c.run s = { s with mem := (c.run s).mem, res := 0x00#8, active := false, samples := [] } := by
  rw [c.run_native hk, hres, runNative, foldl_nativeAccess_writes has s]
  rfl

/-- Settles O29: PREPIN's masked writes carry out its directions and spare the latches. -/
theorem prepinOnNativeCompletes : Obligations.PrepinOnNativeCompletes := by
  intro s hbuild hk
  obtain ⟨hpf, -⟩ := s.buildOk_iff.mp hbuild
  have hplan := prepin_plans hpf
  refine ⟨_, exec_prepin s rfl,
    Plan.run_native_writes hk rfl (hplan.narrow (by simp [hk])).onPorts, ?_,
    Plan.bit_run_of_spares hbuild (prepinPlan_spares_out _)⟩
  exact ((Plan.stepsTo_native hbuild hplan ((Plan.midway_native hk).mpr (.nil ..)) hk).settled
    (by rw [Plan.run_native _ hk]; rfl)).setsDirections hplan.inv_eq

/-- Settles O31: DRVDATA's masked writes carry out its directions and its latches. -/
theorem drvdataOnNativeCompletes : Obligations.DrvdataOnNativeCompletes := by
  intro s v hbuild hk
  obtain ⟨hpf, -⟩ := s.buildOk_iff.mp hbuild
  have hplan := drvdata_plans hpf v
  have hdone : ((drvdataPlan s.profile v).run s).active = false := by rw [Plan.run_native _ hk]; rfl
  have hlatches := (Latching.stepsTo_native (l := drvdataLatching s.profile v) hbuild (drvdata_latches hpf v)
    (fun _ _ => id) ((Latching.midway_native hk).mpr (.nil ..)) hk).settled hdone
  refine ⟨_, exec_drvdata v s rfl, Plan.run_native_writes hk rfl (hplan.narrow (by simp [hk])).onPorts, ?_,
    hlatches.set, hlatches.kept⟩
  exact ((Plan.stepsTo_native hbuild hplan ((Plan.midway_native hk).mpr (.nil ..)) hk).settled hdone).setsDirections
    hplan.inv_eq

end Sys2Proof.Machine
end

section
/-! # Reading the data lines

RDDATA samples each port that carries a data line and gathers the byte from the samples (R181). `Sampled` says how far
it has come: nothing but samples, link, position and draws has changed, and a port already read shows the level of
each of its lines that has one throughout. -/

namespace Sys2Proof.Machine

/-! ## Levels -/

/-- Where R30 gives a line one level the free value does not matter. -/
theorem lineLevel_of_definiteLevel {s : State} {e : Env} {p b : Nat} {v : Bool} (h : s.definiteLevel e p b = some v)
    (draw : Bool) :
    lineLevel (s.outputLine p b) (s.mem.bit .out p b) (s.mem.bit .pue p b) (e.drive p b) draw = v := by
  unfold State.definiteLevel at h
  split at h
  next hout =>
    split at h
    next hext => rcases hext with hext | hext <;> simpa [lineLevel, hout, hext] using h
    next => cases h
  next hin =>
    rw [Bool.not_eq_true] at hin
    split at h
    next hext => simpa [lineLevel, hin, hext] using h
    next hext =>
      split at h
      next hpull => simpa [lineLevel, hin, hext, hpull, Config.pullLevel] using h
      next => cases h

/-- The 32 line levels of a WIDE build show the level R30 gives a line, where R30 gives one. -/
theorem State.getLsbD_levels32 {s : State} (hfits : s.mem.fits s.profile = true) (hk : s.profile.kind = .wide)
    {b : Nat} {v : Bool} (hb : b < 32) (h : s.definiteLevel s.env 0 b = some v) : s.levels32.getLsbD b = v := by
  obtain ⟨g, hmem⟩ := Memory.fits_wide hfits hk
  have hlevel := lineLevel_of_definiteLevel h (Config.freeLevel s.drawCount 0 b)
  rw [State.levels32, portLevels, getLsbD_ofBits, decide_eq_true hb, Bool.true_and, ← hlevel]
  simp only [State.outputLine, hmem]
  rfl

/-- Whether R30 gives a line a level depends on the build and its registers. -/
theorem State.definiteLevel_congr {s u : State} (hprofile : u.profile = s.profile) (hmem : u.mem = s.mem) (e : Env)
    (p b : Nat) : u.definiteLevel e p b = s.definiteLevel e p b := by
  unfold State.definiteLevel State.outputLine
  rw [hprofile, hmem]

/-- The port value `x` shows every line of port `p` that has one level under all of the inputs `es`. -/
def ShowsLevels (es : List Env) (s₀ : State) (p : Nat) (x : Word32) : Prop :=
  ∀ (b : Nat) (v : Bool), b < Config.width s₀.profile.kind → (∀ e ∈ es, s₀.definiteLevel e p b = some v) →
    x.getLsbD b = v

section
variable {es : List Env} {s₀ s : State} (hbuild : s.buildOk = true) (hprofile : s.profile = s₀.profile)
  (hmem : s.mem = s₀.mem) (henv : s.env ∈ es)
include hbuild hprofile hmem henv

theorem showsLevels_levels8 (hk : s.profile.kind ≠ .wide) (p : Nat) :
    ShowsLevels es s₀ p ((s.levels8 p).setWidth 32) := by
  obtain ⟨-, hfits⟩ := s.buildOk_iff.mp hbuild
  intro b v hb hv
  have hb8 : b < 8 := Nat.lt_of_lt_of_le hb (hprofile ▸ width_narrow hk)
  rw [BitVec.getLsbD_setWidth, decide_eq_true (by omega), Bool.true_and]
  exact s.getLsbD_levels8 hfits hk hb8 ((State.definiteLevel_congr hprofile hmem ..).trans (hv s.env henv))

theorem showsLevels_levels32 (hk : s.profile.kind = .wide) : ShowsLevels es s₀ 0 s.levels32 := by
  obtain ⟨-, hfits⟩ := s.buildOk_iff.mp hbuild
  intro b v hb hv
  exact s.getLsbD_levels32 hfits hk (Nat.lt_of_lt_of_le hb (width_wide _))
    ((State.definiteLevel_congr hprofile hmem ..).trans (hv s.env henv))

end

/-! ## Between reads -/

/-- The newest sample of a port counts. -/
theorem sampleOf_cons (p : Nat) (x : Word32) (xs : List (Nat × Word32)) (q : Nat) :
    sampleOf ((p, x) :: xs) q = if q = p then x else sampleOf xs q := by
  by_cases hq : q = p
  · simp [sampleOf, hq]
  · simp [sampleOf, List.lookup_cons, hq, beq_false_of_ne hq]

/-- From `s₀` to `s` the ports of `done` have been read, and no register and no other latch has changed. -/
structure Sampled (es : List Env) (s₀ : State) (done : List Nat) (s : State) : Prop where
  frame : s =
    { s₀ with env := s.env, samples := s.samples, useq := s.useq, sspc := s.sspc, drawCount := s.drawCount }
  shows (p : Nat) : p ∈ done → ShowsLevels es s₀ p (sampleOf s.samples p)

/-- From `s₀` to `t` RDDATA has completed: nothing has changed but the result, the link and the counters, and each bit
of the result is the complement of its line's level (R181). -/
structure ReadDone (es : List Env) (s₀ t : State) : Prop where
  frame : t =
    { s₀ with
      env := t.env, res := t.res, active := false, samples := [], useq := t.useq, sspc := t.sspc
      drawCount := t.drawCount }
  bits (i : Fin 8) (v : Bool) :
    (∀ e ∈ es, s₀.definiteLevel e s₀.profile.dmap[i].port s₀.profile.dmap[i].bit = some v) →
    t.res.getLsbD i.val = !v

namespace Sampled

variable {es : List Env} {s₀ s : State} {done : List Nat}

theorem nil (es : List Env) (s : State) : Sampled es s [] s := ⟨rfl, nofun⟩

theorem profile (h : Sampled es s₀ done s) : s.profile = s₀.profile := by rw [h.frame]

theorem mem (h : Sampled es s₀ done s) : s.mem = s₀.mem := by rw [h.frame]

theorem active (h : Sampled es s₀ done s) : s.active = s₀.active := by rw [h.frame]

theorem withEnv (h : Sampled es s₀ done s) (e : Env) : Sampled es s₀ done (s.withEnv e) :=
  ⟨congrArg (·.withEnv e) h.frame, h.shows⟩

/-- One more port is read. -/
theorem snoc (h : Sampled es s₀ done s) {p : Nat} {x : Word32} (hx : ShowsLevels es s₀ p x) (n : Nat) (l : Sspc)
    (d : Nat) :
    Sampled es s₀ (done ++ [p])
      { s with samples := (p, x) :: s.samples, useq := n, sspc := l, drawCount := d } where
  frame := congrArg
    (fun u : State => { u with samples := (p, x) :: s.samples, useq := n, sspc := l, drawCount := d }) h.frame
  shows q hq := by
    show ShowsLevels es s₀ q (sampleOf ((p, x) :: s.samples) q)
    rw [sampleOf_cons]
    split
    next hqp => exact hqp ▸ hx
    next hqp =>
      rcases List.mem_append.mp hq with hq | hq
      · exact h.shows q hq
      · exact absurd (List.mem_singleton.mp hq) hqp

/-- When every port with a data line has been read, gathering the samples completes the command. -/
theorem complete (h : Sampled es s₀ (aff s₀.profile s₀.profile.dmap 0xFF#8) s) (hpf : s₀.profile.wf = true) :
    ReadDone es s₀ (s.complete (gather s₀.profile.dmap (sampleOf s.samples))) where
  frame := congrArg (fun u : State => u.complete (gather s₀.profile.dmap (sampleOf s.samples))) h.frame
  bits i v hv := by
    obtain ⟨-, hbit, hpol⟩ := wf_map_line hpf (.inl rfl) i
    have hport := (mem_aff_of_wf hpf (.inl rfl) 0xFF#8 _).mpr ⟨i, getLsbD_allOnes8 i, rfl⟩
    rw [State.complete_res, getLsbD_gather, hpol, h.shows _ hport _ v hbit hv, Bool.xor_true]

end Sampled

/-- After a step of RDDATA the ports before its position have been read, or it has completed. -/
structure ReadsTo (es : List Env) (s₀ t : State) : Prop where
  midway : t.active = true → Sampled es s₀ ((aff s₀.profile s₀.profile.dmap 0xFF#8).take t.useq) t
  done : t.active = false → ReadDone es s₀ t

/-- The next port is read, and with the last one the command completes. -/
theorem Sampled.advance {es : List Env} {s₀ s : State}
    (h : Sampled es s₀ ((aff s₀.profile s₀.profile.dmap 0xFF#8).take s.useq) s) (hpf : s₀.profile.wf = true)
    (hact : s.active = true) {p : Nat} (hp : (aff s₀.profile s₀.profile.dmap 0xFF#8)[s.useq]? = some p) {x : Word32}
    (hx : ShowsLevels es s₀ p x) (l : Sspc) (d : Nat) :
    ReadsTo es s₀ (({ s with samples := (p, x) :: s.samples, sspc := l, drawCount := d } : State).advance
      (aff s₀.profile s₀.profile.dmap 0xFF#8).length (gather s₀.profile.dmap (sampleOf ((p, x) :: s.samples)))) := by
  have hnext := h.snoc hx (s.useq + 1) l d
  rw [← Option.toList_some, ← hp, ← List.take_add_one] at hnext
  by_cases hlast : s.useq + 1 < (aff s₀.profile s₀.profile.dmap 0xFF#8).length
  · rw [State.advance_of_lt _ (by exact hlast)]
    exact ⟨fun _ => hnext, fun hdone => absurd (hact.symm.trans hdone) nofun⟩
  · rw [State.advance_of_le _ (by exact Nat.le_of_not_lt hlast)]
    rw [List.take_of_length_le (Nat.le_of_not_lt hlast)] at hnext
    exact ⟨nofun, fun _ => hnext.complete hpf⟩

/-! ## The step, by kind -/

theorem exec_rddata {pf : Profile} (s : State) (h : s.profile = pf) : exec .rddata s = .next ((rddataPlan pf).run s) :=
  h ▸ rfl

/-- Reads on NATIVE change samples and draws only. -/
theorem foldl_nativeAccess_reads (ps : List Nat) (s : State) :
    (ps.map Access.rd).foldl nativeAccess s =
      { s with
        samples := ((ps.map Access.rd).foldl nativeAccess s).samples
        drawCount := ((ps.map Access.rd).foldl nativeAccess s).drawCount } := by
  induction ps generalizing s with
  | nil => rfl
  | cons p ps ih =>
    rw [List.map_cons, List.foldl_cons, ih]
    rfl

/-- Reading ports one after another on NATIVE. -/
theorem Sampled.foldl_nativeAccess {es : List Env} {s₀ : State} (hbuild : s₀.buildOk = true)
    (hk : s₀.profile.kind ≠ .wide) (ps : List Nat) :
    ∀ {done : List Nat} {s : State}, s.env ∈ es → Sampled es s₀ done s →
      Sampled es s₀ (done ++ ps) ((ps.map Access.rd).foldl nativeAccess s) := by
  induction ps with
  | nil => intro done s _ h; simpa using h
  | cons p ps ih =>
    intro done s henv h
    have hbuild' : s.buildOk = true := by
      rw [State.buildOk, h.profile, h.mem]
      exact hbuild
    have hshows := showsLevels_levels8 hbuild' h.profile h.mem henv (h.profile ▸ hk) p
    rw [List.map_cons, List.foldl_cons, List.append_cons]
    exact ih henv (h.snoc hshows s.useq s.sspc (s.drawCount + 1))

section
variable {pf : Profile} {s : State} (hprofile : s.profile = pf)
include hprofile

/-- On NATIVE the one step reads every port, one after another. -/
theorem rddata_run_native (hk : pf.kind = .native) :
    (rddataPlan pf).run s = (((aff pf pf.dmap 0xFF#8).map Access.rd).foldl nativeAccess s).complete
      (gather pf.dmap (sampleOf (((aff pf pf.dmap 0xFF#8).map Access.rd).foldl nativeAccess s).samples)) := by
  subst hprofile
  rw [Plan.run_native _ hk, runNative, rddataPlan, rddataAccesses, foldl_nativeAccess_reads]
  rfl

/-- On WIDE a step samples the 32 line levels. -/
theorem rddata_run_wide (hk : pf.kind = .wide) {p : Nat} (hp : (aff pf pf.dmap 0xFF#8)[s.useq]? = some p) :
    (rddataPlan pf).run s = (s.keepSample p s.levels32).advance (aff pf pf.dmap 0xFF#8).length
      (gather pf.dmap (sampleOf ((p, s.levels32) :: s.samples))) := by
  subst hprofile
  have ha : (rddataAccesses 32 s.profile)[s.useq]? = some (.rd p) := by
    rw [rddataAccesses, List.getElem?_map, hp]
    rfl
  have hlen : (rddataAccesses 32 s.profile).length = (aff s.profile s.profile.dmap 0xFF#8).length := List.length_map ..
  rw [Plan.run_wide _ hk]
  simp only [rddataPlan, runWide, ha, hlen]
  rfl

/-- On REMOTE a served step reads the port register, and so the line levels, of the next port. -/
theorem rddata_run_remote (hk : pf.kind = .remote) (hbuild : s.buildOk = true) (hserves : s.linkServes) {p : Nat}
    (hp : (aff pf pf.dmap 0xFF#8)[s.useq]? = some p) :
    (rddataPlan pf).run s =
      ({ s with
        samples := (p, (s.levels8 p).setWidth 32) :: s.samples
        sspc := Sspc.finished .main [pf.ctrlRd, regId pf .out p, 0x00#8] (s.levels8 p)
        drawCount := s.drawCount + 1 } : State).advance (aff pf pf.dmap 0xFF#8).length
      (gather pf.dmap (sampleOf ((p, (s.levels8 p).setWidth 32) :: s.samples))) := by
  subst hprofile
  have hport := ((mem_aff ..).mp (List.mem_of_getElem? hp)).1
  have hx : ((rddataPlan s.profile).narrow.flatMap (Access.xacts s.profile))[s.useq]? =
      some (.sample p (regId s.profile .out p)) := by
    rw [rddataXacts, List.getElem?_map, hp]
    rfl
  rw [Plan.run_remote _ hk, runRemote_of_linkServes hserves hx, rddataXacts, List.length_map,
    ← remRead_regId_out hbuild hk hport]
  rfl

end

/-- On WIDE and REMOTE RDDATA takes one step for each port with a data line. -/
theorem rddataPlan_steps {pf : Profile} (hpf : pf.wf = true) (hk : pf.kind ≠ .native) :
    (rddataPlan pf).steps pf = (aff pf pf.dmap 0xFF#8).length := by
  cases hkind : pf.kind with
  | native => exact absurd hkind hk
  | wide =>
    obtain ⟨-, hsteps, -⟩ := commandSteps_wide hpf hkind 0#8 0#8 0#8
    rw [aff_wide hpf hkind (.inl rfl) (by decide)]
    exact hsteps
  | remote =>
    obtain ⟨-, hsteps, -⟩ := commandSteps_remote hpf hkind 0#8 0#8 0#8
    exact hsteps

section
variable {es : List Env} {s₀ s : State} (hbuild : s₀.buildOk = true) (henv : s.env ∈ es)
include hbuild henv

/-- On NATIVE the command completes with every port read. -/
theorem Sampled.readDone_native (hk : s₀.profile.kind = .native) {done : List Nat} (h : Sampled es s₀ done s) :
    ReadDone es s₀ ((rddataPlan s₀.profile).run s) := by
  obtain ⟨hpf, -⟩ := s₀.buildOk_iff.mp hbuild
  have hall := h.foldl_nativeAccess hbuild (by simp [hk]) (aff s₀.profile s₀.profile.dmap 0xFF#8) henv
  rw [rddata_run_native h.profile hk]
  exact Sampled.complete ⟨hall.frame, fun p hp => hall.shows p (List.mem_append_right _ hp)⟩ hpf

variable (h : Sampled es s₀ ((aff s₀.profile s₀.profile.dmap 0xFF#8).take s.useq) s) (hact : s.active = true)
include h hact

/-- On WIDE and REMOTE it goes on to the next port. -/
theorem Sampled.readsTo_next (hk : s₀.profile.kind ≠ .native) (hserves : s.linkServes) {p : Nat}
    (hp : (aff s₀.profile s₀.profile.dmap 0xFF#8)[s.useq]? = some p) :
    ReadsTo es s₀ ((rddataPlan s₀.profile).run s) := by
  obtain ⟨hpf, -⟩ := s₀.buildOk_iff.mp hbuild
  have hbuild' : s.buildOk = true := by
    rw [State.buildOk, h.profile, h.mem]
    exact hbuild
  cases hkind : s₀.profile.kind with
  | native => exact absurd hkind hk
  | wide =>
    have hkind' : s.profile.kind = .wide := h.profile ▸ hkind
    obtain rfl : p = 0 := by
      have hmem := List.mem_of_getElem? hp
      rwa [aff_wide hpf hkind (.inl rfl) (by decide), List.mem_singleton] at hmem
    rw [rddata_run_wide h.profile hkind hp]
    exact h.advance hpf hact hp (showsLevels_levels32 hbuild' h.profile h.mem henv hkind') s.sspc (s.drawCount + 1)
  | remote =>
    have hnarrow : s.profile.kind ≠ .wide := by rw [h.profile, hkind]; nofun
    rw [rddata_run_remote h.profile hkind hbuild' hserves hp]
    exact h.advance hpf hact hp (showsLevels_levels8 hbuild' h.profile h.mem henv hnarrow p) _ _

/-- One step of RDDATA with the link serving MAIN, on any kind of build. -/
theorem Sampled.readsTo (hlt : s.useq < (rddataPlan s₀.profile).steps s₀.profile) (hserves : s.linkServes) :
    ReadsTo es s₀ ((rddataPlan s₀.profile).run s) := by
  by_cases hk : s₀.profile.kind = .native
  · have hdone := h.readDone_native hbuild henv hk
    have hinactive : ((rddataPlan s₀.profile).run s).active = false := by rw [hdone.frame]
    exact ⟨fun hgoing => absurd (hinactive.symm.trans hgoing) nofun, fun _ => hdone⟩
  · obtain ⟨hpf, -⟩ := s₀.buildOk_iff.mp hbuild
    rw [rddataPlan_steps hpf hk] at hlt
    exact h.readsTo_next hbuild henv hact hk hserves (List.getElem?_eq_getElem hlt)

end

/-! ## The statements -/

/-- Settles O30: the one step has read every port under the inputs it finds. -/
theorem rddataOnNativeCompletes : Obligations.RddataOnNativeCompletes := by
  intro s hbuild hk
  have hdone := (Sampled.nil [s.env] s).readDone_native hbuild (List.mem_singleton.mpr rfl) hk
  refine ⟨_, exec_rddata s rfl, ?_, fun i v hv => hdone.bits i v (by simpa using hv)⟩
  rw [rddata_run_native rfl hk, foldl_nativeAccess_reads]
  rfl

/-- RDDATA reads port after port along its run. -/
theorem Reached.readsTo {es : List Env} {s₀ s : State} (hready : s₀.ready = true) (hresp : allComplete es = true)
    (h : Reached (rddataPlan s₀.profile) es s₀ s) : ReadsTo es s₀ s := by
  obtain ⟨hbuild, hact₀, huseq, -⟩ := (State.ready_iff _).mp hready
  induction h with
  | start =>
    refine ⟨fun _ => ?_, fun hdone => absurd (hact₀.symm.trans hdone) nofun⟩
    rw [huseq, List.take_zero]
    exact .nil es s₀
  | @step s e hs hact he ih =>
    have hlt := hs.useq_lt hready hresp hact
    exact ((ih.midway hact).withEnv e).readsTo hbuild he hact hlt (hs.linkServes hready hresp he)

/-- On WIDE the one sample is of every data line's port. -/
theorem exec_rddata_wide {s : State} (hbuild : s.buildOk = true) (hk : s.profile.kind = .wide) (huseq : s.useq = 0) :
    exec .rddata s = .next
      { s with
        res := gather s.profile.dmap fun _ => s.levels32
        active := false, samples := [], useq := 1, drawCount := s.drawCount + 1 } := by
  obtain ⟨hpf, -⟩ := s.buildOk_iff.mp hbuild
  have haff := aff_wide hpf hk (.inl rfl) (m := 0xFF#8) (by decide)
  have hgather : gather s.profile.dmap (sampleOf ((0, s.levels32) :: s.samples)) =
      gather s.profile.dmap fun _ => s.levels32 := by
    refine gather_eq fun i => ?_
    rw [getLsbD_gather, map_port_wide hpf hk (.inl rfl) i, sampleOf_cons, if_pos rfl]
  rw [exec_rddata s rfl, rddata_run_wide rfl hk (p := 0) (by rw [haff, huseq]; rfl), hgather, haff,
    State.advance_of_le _ (by simp)]
  simp only [State.keepSample_useq, huseq]
  rfl

/-- Settles O52: the run, and one step on WIDE and on REMOTE. -/
theorem rddataNetEffect : Obligations.RddataNetEffect := by
  refine ⟨fun s es hready hresp hlen => ?_, fun s => exec_rddata_wide, fun s p hbuild hk hserves hp => ?_⟩
  · obtain ⟨t, hrun, hdone, h⟩ := Reached.exists_run hready hresp exec_rddata hlen
    obtain ⟨hframe, hbits⟩ := (h.readsTo hready hresp).done hdone
    exact ⟨t, hrun, hframe, hbits⟩
  · refine ⟨_, (exec_rddata s rfl).trans (congrArg _ (rddata_run_remote rfl hk hbuild hserves hp)), ?_, ?_, ?_,
      fun hlt => ?_, fun hlast => ?_⟩
    · rw [State.advance_sspc]; rfl
    · rw [State.advance_sspc]; rfl
    · rw [State.advance_sspc]; rfl
    · rw [State.advance_of_lt _ (by exact hlt)]
    · rw [State.advance_of_le _ (by exact Nat.le_of_eq hlast.symm), funext (sampleOf_cons p _ s.samples)]
      rfl

end Sys2Proof.Machine
end

section
/-! # Driving, reading back and releasing the data lines -/

namespace Sys2Proof.Machine

/-- A run keeps the profile. -/
theorem profile_of_runCommand {i : Instr} {es : List Env} {s t : State} (h : runCommand i es s = .next t) :
    t.profile = s.profile := by
  induction es generalizing s with
  | nil => injection h with h; exact h ▸ rfl
  | cons e es ih =>
    cases hexec : exec i (s.withEnv e) with
    | next u =>
      have hkeep : u.profile = s.profile := (MainKeeps.exec hexec).profile
      rw [runCommand_of_exec hexec] at h
      split at h
      · exact (ih h).trans hkeep
      · injection h with h; exact h ▸ hkeep
    | fault r => rw [State.withEnv] at hexec; simp [runCommand, hexec] at h
    | refused r => rw [State.withEnv] at hexec; simp [runCommand, hexec] at h

/-- What DRVDATA leaves behind, whichever run it is, in any later state with the same registers: outputs, with the
complement of the byte on their latches. -/
theorem driven_of_runCommand {s t u : State} {v : Byte} {es : List Env} (hready : s.ready = true)
    (hresp : allComplete es = true) (hlen : es.length = commandSteps s.profile (.drvdata v))
    (hrun : runCommand (.drvdata v) es s = .next t) (hprofile : u.profile = t.profile) (hmem : u.mem = t.mem) :
    u.profile = s.profile ∧ ∀ i : Fin 8, u.outputLine u.profile.dmap[i].port u.profile.dmap[i].bit = true ∧
      u.mem.bit .out u.profile.dmap[i].port u.profile.dmap[i].bit = !v.getLsbD i.val := by
  obtain ⟨t', hrun', -, -, ⟨hset, -⟩, hlatch, -⟩ := drvdataNetEffect s v es hready hresp hlen
  rw [hrun] at hrun'
  injection hrun' with heq
  subst heq
  have hpf : u.profile = s.profile := hprofile.trans (profile_of_runCommand hrun)
  refine ⟨hpf, fun i => ⟨?_, ?_⟩⟩
  · obtain ⟨hdir, -⟩ := hset i (getLsbD_allOnes8 i)
    rw [State.outputLine, hmem, hpf, hdir, getLsbD_allOnes8, isOut, Bool.xor_assoc, Bool.xor_self, Bool.xor_false]
  · rw [hmem, hpf, hlatch i (getLsbD_allOnes8 i)]

/-- Settles O53: each data line is an output that nothing opposes, so it has its latch's level, and RDDATA returns the
complement of the complement. -/
theorem driveThenReadReturnsTheByte : Obligations.DriveThenReadReturnsTheByte := by
  intro s t u x es es' hready hresp hlen hrun hready' hprofile hmem hresp' hlen' hext
  obtain ⟨-, hdriven⟩ := driven_of_runCommand hready hresp hlen hrun hprofile hmem
  obtain ⟨hrddata, -, -⟩ := rddataNetEffect
  obtain ⟨t', hrun', hframe, hbits⟩ := hrddata u es' hready' hresp' hlen'
  have hbit (i : Fin 8) : t'.res.getLsbD i.val = x.getLsbD i.val := by
    obtain ⟨hout, hlatch⟩ := hdriven i
    rw [hbits i _ fun e he => State.uncontended.definiteLevel ⟨hout, hext e he i⟩, hlatch, Bool.not_not]
  exact ⟨t', hrun', by rw [hframe], BitVec.eq_of_getLsbD_eq fun k hk => hbit ⟨k, hk⟩⟩

/-- Settles O54: PREPIN turns the lines around and keeps the latches that DRVDATA set. -/
theorem driveThenReleaseLeavesInputs : Obligations.DriveThenReleaseLeavesInputs := by
  intro s t u v es es' hready hresp hlen hrun hready' hprofile hmem hresp' hlen'
  obtain ⟨hpf, hdriven⟩ := driven_of_runCommand hready hresp hlen hrun hprofile hmem
  obtain ⟨t', hrun', hdone, -, ⟨hset, -⟩, hkept⟩ := prepinNetEffect u es' hready' hresp' hlen'
  refine ⟨t', hrun', hdone, fun i => ?_⟩
  obtain ⟨-, hlatch⟩ := hdriven i
  obtain ⟨hdir, hpue⟩ := hset i (getLsbD_allOnes8 i)
  rw [← hpf]
  refine ⟨?_, ?_, ?_⟩
  · rw [State.outputLine, hdir, profile_of_runCommand hrun']
    simp [isOut]
  · rw [hpue]
    simp
  · rw [hkept, hlatch]

end Sys2Proof.Machine
end

section
/-! # The control lines

SETCST is a latch command and SETCDIR a direction command on the control lines of a mask (R200, R204), so their runs
are those of `Latching` and `Directing`. On REMOTE a line that SETCST does not select has its level copied into its
latch (R209), and QPIN is one read (R210). -/

namespace Sys2Proof.Machine

/-! ## SETCST -/

/-- SETCST: the byte on the latches of the masked control lines (R200). -/
def setcstLatching (pf : Profile) (bits mask : Byte) : Latching := ⟨pf.cmap, mask, bits⟩

/-- SETCST writes the latches of affected ports, each under the port's mask (R200). -/
theorem exists_of_mem_setcstAccesses {w : Nat} {pf : Profile} {bits mask : Byte} {a : Access w}
    (ha : a ∈ setcstAccesses w pf bits mask) :
    ∃ p ∈ aff pf pf.cmap mask, a = .mw .out p (smask pf.cmap mask p) (scatter pf.cmap bits p) := by
  simp only [setcstAccesses, List.mem_flatMap, mem_mwList] at ha
  obtain ⟨p, hp, -, rfl⟩ := ha
  exact ⟨p, hp, rfl⟩

/-- SETCST writes no register but the latch (R203). -/
theorem setcstPlan_spares (pf : Profile) (bits mask : Byte) {r : Reg} (hr : r ≠ .out) :
    (setcstPlan pf bits mask).Spares pf r := by
  have hspares {w : Nat} {a : Access w} (ha : a ∈ setcstAccesses w pf bits mask) : a.Spares pf r := by
    obtain ⟨p, hp, rfl⟩ := exists_of_mem_setcstAccesses ha
    exact ⟨hr.symm, ((mem_aff ..).mp hp).1⟩
  exact ⟨fun _ _ => hspares, fun _ _ => hspares⟩

section
variable {pf : Profile} (hpf : pf.wf = true)
include hpf

theorem latchedBy_setcst {w : Nat} (bits mask : Byte) (hw : Config.width pf.kind ≤ w) :
    (setcstLatching pf bits mask).PlannedBy pf (setcstAccesses w pf bits mask) := by
  have hmap : WellPlaced (setcstLatching pf bits mask).map w := wellPlaced_cmap hpf hw
  refine Latching.plannedBy_flatMap_aff (l := setcstLatching pf bits mask)
    (fun i => (wf_line hpf (mem_lines_cmap pf i)).1) (fun p hp a ha => ?_) fun p hp => ?_
  · obtain ⟨-, rfl⟩ := mem_mwList.mp ha
    exact ⟨⟨_, _, _, rfl⟩, Latching.latches_scatter hmap (wf_map_pol hpf (.inr rfl)) ((mem_aff ..).mp hp).2⟩
  · exact ⟨_, _, mem_mwList.mpr ⟨(hmap.smask_ne_zero_iff ..).mpr ((mem_aff ..).mp hp).2, rfl⟩⟩

theorem setcst_latches (bits mask : Byte) : (setcstLatching pf bits mask).Plans pf (setcstPlan pf bits mask) where
  narrow hk := latchedBy_setcst hpf bits mask (width_narrow hk)
  wide _ := latchedBy_setcst hpf bits mask (width_wide _)
  placed := wellPlaced_cmap hpf

end

theorem exec_setcst {pf : Profile} (bits mask : Byte) (s : State) (h : s.profile = pf) :
    exec (.setcst bits mask) s = .next ((setcstPlan pf bits mask).run s) :=
  h ▸ rfl

/-- Settles O32: SETCST's masked writes carry out its latches and spare directions and pull-ups. -/
theorem setcstOnNativeCompletes : Obligations.SetcstOnNativeCompletes := by
  intro s bits mask hbuild hk
  obtain ⟨hpf, -⟩ := s.buildOk_iff.mp hbuild
  have hplan := setcst_latches hpf bits mask
  have hlatches := (Latching.stepsTo_native hbuild hplan (fun _ _ => id) ((Latching.midway_native hk).mpr (.nil ..))
    hk).settled (by rw [Plan.run_native _ hk]; rfl)
  have hkept (r : Reg) (hr : r ≠ .out) := Plan.bit_run_of_spares hbuild (setcstPlan_spares s.profile bits mask hr)
  exact ⟨_, exec_setcst bits mask s rfl, Plan.run_native_writes hk rfl (hplan.narrow (by simp [hk])).onPorts,
    hlatches.set, hlatches.kept, fun p b => ⟨hkept .dir nofun p b, hkept .pue nofun p b⟩⟩

/-- Settles O49: SETCST keeps every direction along its run, and so its plan carries out its latches. -/
theorem setcstNetEffect : Obligations.SetcstNetEffect := by
  intro s bits mask es hready hresp hlen
  obtain ⟨hbuild, -, -, -⟩ := s.ready_iff.mp hready
  obtain ⟨hpf, -⟩ := s.buildOk_iff.mp hbuild
  obtain ⟨t, hrun, hdone, h⟩ := Reached.exists_run hready hresp (exec_setcst bits mask) hlen
  have hkept (r : Reg) (hr : r ≠ .out) {u : State} (hu : Reached (setcstPlan s.profile bits mask) es s u) :=
    hu.bit_of_spares hready (setcstPlan_spares s.profile bits mask hr)
  have hlatches := (h.latchStepsTo hready hresp rfl (setcst_latches hpf bits mask)
    fun u hu _ p b _ => hkept .dir nofun hu p b).settled hdone
  exact ⟨t, hrun, hdone, h.res_of_done hready rfl hdone, hlatches.setsLatches,
    fun p b => ⟨hkept .dir nofun h p b, hkept .pue nofun h p b⟩, hlatches.keepsOtherLatches,
    fun _ => hlatches.keepsOutputLatches⟩

/-! ## The levels SETCST copies on REMOTE

The read half of a latch's update reads line levels, and the write half puts those of unmasked lines into the latch.
A line keeps its level when its latch takes that level, so the copy disturbs no later read. -/

/-- A line that R30 gives the level `v` has it also when its latch is changed to `v`. -/
theorem State.definiteLevel_of_latch_copied {s u : State} {e : Env} {p b : Nat} {v : Bool}
    (h : s.definiteLevel e p b = some v) (hprofile : u.profile = s.profile)
    (hkept : ∀ r, r ≠ .out → u.mem.bit r p b = s.mem.bit r p b)
    (hout : u.mem.bit .out p b = s.mem.bit .out p b ∨ u.mem.bit .out p b = v) : u.definiteLevel e p b = some v := by
  have houtput : u.outputLine p b = s.outputLine p b := by
    rw [State.outputLine, State.outputLine, hprofile, hkept .dir nofun]
  unfold State.definiteLevel at h ⊢
  rw [houtput, hkept .pue nofun]
  split at h
  next hline =>
    rw [if_pos hline]
    split at h
    next hext =>
      have hlatch : s.mem.bit .out p b = v := Option.some.inj h
      have hlatch' : u.mem.bit .out p b = v := hout.elim (·.trans hlatch) id
      rw [hlatch', ← hlatch, if_pos hext]
    next => cases h
  next hline => rw [if_neg hline]; exact h

/-- A write of a latch of the build under a mask that does not take in bit `b` of port `p`. -/
def Access.CopiesBit (pf : Profile) (p b : Nat) (a : Access 8) : Prop :=
  ∃ q pm pv, a = .mw .out q pm pv ∧ q ∈ pf.ports ∧ (q = p → pm.getLsbD b = false)

theorem Access.CopiesBit.isWriteOn {pf : Profile} {p b : Nat} {a : Access 8} (h : a.CopiesBit pf p b) :
    a.IsWriteOn pf := by
  obtain ⟨q, pm, pv, rfl, hq, -⟩ := h
  exact ⟨_, _, _, _, rfl, hq⟩

/-- Between the steps of the latch updates `as`, a line of level `v` still has it; `T` holds it between the halves of
the update of its port, and its latch after that update; and the command completes with the last update. -/
structure CopiesLevel (as : List (Access 8)) (es : List Env) (p b : Nat) (v : Bool) (s : State) : Prop where
  level (e : Env) : e ∈ es → s.definiteLevel e p b = some v
  latched (pm pv : Byte) : s.useq % 2 = 1 → as[s.useq / 2]? = some (.mw .out p pm pv) → s.t.getLsbD b = v
  copied (pm pv : Byte) : .mw .out p pm pv ∈ as.take (s.useq / 2) → s.mem.bit .out p b = v
  done : s.active = false → as.length ≤ s.useq / 2

namespace CopiesLevel

section
variable {as : List (Access 8)} {es : List Env} {p b : Nat} {v : Bool} {s : State}

/-- The environment's inputs do not say how far the command has come. -/
theorem withEnv (h : CopiesLevel as es p b v s) (e : Env) : CopiesLevel as es p b v (s.withEnv e) :=
  ⟨h.level, h.latched, h.copied, h.done⟩

theorem start (huseq : s.useq = 0) (hact : s.active = true) (hlevel : ∀ e ∈ es, s.definiteLevel e p b = some v) :
    CopiesLevel as es p b v s where
  level := hlevel
  latched _ _ hodd := by rw [huseq] at hodd; cases hodd
  copied _ _ hmem := by rw [huseq] at hmem; cases hmem
  done hdone := absurd (hact.symm.trans hdone) nofun

variable (hbuild : s.buildOk = true) (hk : s.profile.kind = .remote) (hserves : s.linkServes)
  (h : CopiesLevel as es p b v s) {xs : List Xact} {q : Nat} {pm pv : Byte}
  (ha : as[s.useq / 2]? = some (.mw .out q pm pv)) (hq : q ∈ s.profile.ports)
include hbuild hk hserves h ha hq

/-- The read half finds the line at its level. -/
theorem step_readT (hact : s.active = true) (henv : s.env ∈ es) (hb : b < 8) (heven : s.useq % 2 = 0)
    (hx : xs[s.useq]? = some (.readT (regId s.profile .out q))) (hlen : s.useq + 1 < xs.length) :
    CopiesLevel as es p b v (runRemote xs .none s) := by
  have hhalf : (s.useq + 1) / 2 = s.useq / 2 := by omega
  rw [runRemote_readT hserves hx _ hlen]
  refine ⟨h.level, fun pm' pv' _ hget => ?_, ?_, fun hdone => absurd (hact.symm.trans hdone) nofun⟩
  · simp only [hhalf, ha, Option.some.injEq, Access.mw.injEq] at hget
    obtain ⟨-, rfl, -, -⟩ := hget
    exact getLsbD_remRead_regId_out hbuild hk hq hb (h.level s.env henv)
  · simpa only [hhalf] using h.copied

/-- The write half puts the level into the latch, if it is of the line's port. -/
theorem step_writeT (hact : s.active = true) (hmiss : q = p → pm.getLsbD b = false) (hodd : s.useq % 2 = 1)
    (hx : xs[s.useq]? = some (.writeT (regId s.profile .out q) pm pv)) (hlen : xs.length = 2 * as.length) :
    CopiesLevel as es p b v (runRemote xs .none s) := by
  have hhalf : (s.useq + 1) / 2 = s.useq / 2 + 1 := by omega
  have hbit := bit_remWrite_regId hbuild hk hq .out (merge s.t pm pv)
  have hkept (r : Reg) (hr : r ≠ .out) :
      (remWrite (regId s.profile .out q) (merge s.t pm pv) s).mem.bit r p b = s.mem.bit r p b := by
    rw [hbit, if_neg fun hreg => hr hreg.1]
  have hother (hne : q ≠ p) :
      (remWrite (regId s.profile .out q) (merge s.t pm pv) s).mem.bit .out p b = s.mem.bit .out p b := by
    rw [hbit, if_neg fun hreg => hne hreg.2.symm]
  have hsame (heq : q = p) : (remWrite (regId s.profile .out q) (merge s.t pm pv) s).mem.bit .out p b = v := by
    rw [hbit, if_pos ⟨rfl, heq.symm⟩, getLsbD_merge, hmiss heq, if_neg Bool.false_ne_true]
    exact h.latched pm pv hodd (heq ▸ ha)
  rw [runRemote_writeT hserves hx]
  refine ⟨fun e he => ?_, fun pm' pv' hodd' => ?_, fun pm' pv' hmem => ?_, fun hdone => ?_⟩
  · refine State.definiteLevel_of_latch_copied (h.level e he) (by simp) (by simpa using hkept) ?_
    rw [State.advance_mem]
    exact (eq_or_ne q p).elim (fun heq => .inr (hsame heq)) fun hne => .inl (hother hne)
  · simp only [State.advance_useq] at hodd'
    omega
  · rw [State.advance_mem]
    by_cases heq : q = p
    · exact hsame heq
    · simp only [State.advance_useq, hhalf, List.take_add_one, ha, Option.toList_some, List.mem_append,
        List.mem_singleton, Access.mw.injEq] at hmem
      rcases hmem with hmem | ⟨-, rfl, -, -⟩
      · exact (hother heq).trans (h.copied pm' pv' hmem)
      · exact absurd rfl heq
  · have hlast := State.le_of_advance_done (by exact hact) hdone
    simp only [State.advance_useq] at hlast ⊢
    omega

end

/-- One step of a command of latch updates with the link serving MAIN. -/
theorem step {as : List (Access 8)} {es : List Env} {p b : Nat} {v : Bool} {s : State} (hb : b < 8)
    (hbuild : s.buildOk = true) (hk : s.profile.kind = .remote) (hact : s.active = true) (hserves : s.linkServes)
    (henv : s.env ∈ es) (has : ∀ a ∈ as, a.CopiesBit s.profile p b) (h : CopiesLevel as es p b v s) :
    CopiesLevel as es p b v (runRemote (as.flatMap (Access.xacts s.profile)) .none s) := by
  have hon : ∀ a ∈ as, a.IsWriteOn s.profile := fun a ha => (has a ha).isWriteOn
  have hlen := length_xacts hon
  cases hx : (as.flatMap (Access.xacts s.profile))[s.useq]? with
  | none =>
    have hle := List.getElem?_eq_none_iff.mp hx
    rw [runRemote, hx]
    exact ⟨h.level, h.latched, h.copied, fun _ => by simp only [State.complete_useq]; omega⟩
  | some x =>
    have hxa := hx
    rw [getElem?_xacts hon, Option.bind_eq_some_iff] at hxa
    obtain ⟨a, ha, hxa⟩ := hxa
    obtain ⟨q, pm, pv, rfl, hq, hmiss⟩ := has a (List.mem_of_getElem? ha)
    obtain ⟨hlt, -⟩ := List.getElem?_eq_some_iff.mp ha
    rcases Nat.mod_two_eq_zero_or_one s.useq with heven | hodd
    · rw [heven] at hxa
      cases hxa
      exact step_readT hbuild hk hserves h ha hq hact henv hb heven hx (by omega)
    · rw [hodd] at hxa
      cases hxa
      exact step_writeT hbuild hk hserves h ha hq hact hmiss hodd hx hlen

end CopiesLevel

/-- No update of SETCST takes in a bit that the mask does not select. -/
theorem copiesBit_of_mem_setcstAccesses {pf : Profile} (hpf : pf.wf = true) (hk : pf.kind ≠ .wide) {bits mask : Byte}
    {p b : Nat} (hb : ¬selected pf.cmap mask p b) {a : Access 8} (ha : a ∈ setcstAccesses 8 pf bits mask) :
    a.CopiesBit pf p b := by
  obtain ⟨q, hq, rfl⟩ := exists_of_mem_setcstAccesses ha
  refine ⟨q, _, _, rfl, ((mem_aff ..).mp hq).1, ?_⟩
  rintro rfl
  rwa [← Bool.not_eq_true, (wellPlaced_cmap hpf (width_narrow hk)).getLsbD_smask_iff]

/-- Settles O50: the level is copied when the line's port is updated, and no later update touches that latch. -/
theorem remoteSetcstCopiesLineLevels : Obligations.RemoteSetcstCopiesLineLevels := by
  intro s t bits mask es p b v hready hk hresp hlen hrun hp hb hsel hlevel
  obtain ⟨hbuild, hact₀, huseq, -⟩ := s.ready_iff.mp hready
  obtain ⟨hpf, -⟩ := s.buildOk_iff.mp hbuild
  have hnarrow : s.profile.kind ≠ .wide := by simp [hk]
  obtain ⟨t', hrun', hdone, h⟩ := Reached.exists_run hready hresp (exec_setcst bits mask) hlen
  obtain rfl : t = t' := by simpa [hrun] using hrun'
  have hcopies : CopiesLevel (setcstAccesses 8 s.profile bits mask) es p b v t := by
    clear hrun hrun' hdone
    induction h with
    | start => exact .start huseq hact₀ hlevel
    | @step u e hu hact he ih =>
      have hkind : (u.withEnv e).profile.kind = .remote := hu.profile ▸ hk
      have hbuild := hu.buildOk hready
      rw [Plan.run_remote _ hkind]
      refine (ih.withEnv e).step hb hbuild hkind hact (hu.linkServes hready hresp he) he fun a ha => ?_
      rw [State.withEnv_profile, hu.profile]
      exact copiesBit_of_mem_setcstAccesses hpf hnarrow hsel ha
  have hmem : Access.mw .out p (smask s.profile.cmap mask p) (scatter s.profile.cmap bits p) ∈
      setcstAccesses 8 s.profile bits mask := by
    refine List.mem_flatMap.mpr ⟨p, hp, ?_⟩
    rw [mwList_of_mem_aff (wellPlaced_cmap hpf (width_narrow hnarrow)) hp]
    exact List.mem_singleton.mpr rfl
  rw [← List.take_of_length_le (hcopies.done hdone)] at hmem
  exact hcopies.copied _ _ hmem

/-! ## SETCDIR -/

theorem exec_setcdir {pf : Profile} (bits mask : Byte) (s : State) (h : s.profile = pf) :
    exec (.setcdir bits mask) s = .next ((setcdirPlan pf bits mask).run s) :=
  h ▸ rfl

/-- Settles O33: SETCDIR's masked writes carry out its directions and spare the latches. -/
theorem setcdirOnNativeCompletes : Obligations.SetcdirOnNativeCompletes := by
  intro s bits mask hbuild hk
  obtain ⟨hpf, -⟩ := s.buildOk_iff.mp hbuild
  have hplan := setcdir_plans hpf bits mask
  have hsettled := (Plan.stepsTo_native hbuild hplan ((Plan.midway_native hk).mpr (.nil ..)) hk).settled
    (by rw [Plan.run_native _ hk]; rfl)
  exact ⟨_, exec_setcdir bits mask s rfl, Plan.run_native_writes hk rfl (hplan.narrow (by simp [hk])).onPorts,
    hsettled.setsDirections hplan.inv_eq, Plan.bit_run_of_spares hbuild (setcdirPlan_spares_out hpf bits mask)⟩

/-- Settles O51: SETCDIR's plan, on WIDE another list of accesses than elsewhere, carries out its directions and
spares the latches. -/
theorem setcdirNetEffect : Obligations.SetcdirNetEffect := by
  intro s bits mask es hready hresp hlen
  obtain ⟨hbuild, -, -, -⟩ := s.ready_iff.mp hready
  obtain ⟨hpf, -⟩ := s.buildOk_iff.mp hbuild
  have hplan := setcdir_plans hpf bits mask
  obtain ⟨t, hrun, hdone, h⟩ := Reached.exists_run hready hresp (exec_setcdir bits mask) hlen
  exact ⟨t, hrun, hdone, h.res_of_done hready rfl hdone,
    ((h.stepsTo hready hplan).settled hdone).setsDirections hplan.inv_eq,
    h.bit_of_spares hready (setcdirPlan_spares_out hpf bits mask)⟩

/-! ## QPIN -/

/-- QPIN with an index in 0..7 reads the port of that control line (R210). -/
theorem qpinPlan_fin (pf : Profile) (i : Fin 8) :
    qpinPlan pf (BitVec.ofNat 8 i.val) = ⟨[.rd pf.cmap[i].port], [.rd pf.cmap[i].port], .pin i⟩ := by
  have hindex : (BitVec.ofNat 8 i.val).toNat = i.val := by
    rw [BitVec.toNat_ofNat, Nat.mod_eq_of_lt (by omega)]
  simp [qpinPlan, hindex]

/-- QPIN of line `i` completed from `s`, with `x` the port value it has read: only the result and the sample, position,
link and draw latches differ (R210). -/
def State.pinRead (s : State) (i : Fin 8) (x : Word32) (useq : Nat) (sspc : Sspc) : State :=
  { s with
    res := boolByte (x.getLsbD s.profile.cmap[i].bit ^^ s.profile.cmap[i].pol)
    active := false, samples := [], useq := useq, sspc := sspc, drawCount := s.drawCount + 1 }

/-- The newest sample of a line's port gives its result. -/
theorem eval_pin_cons (pf : Profile) (i : Fin 8) (x : Word32) (xs : List (Nat × Word32)) (rx : Byte) :
    (Result.pin i).eval pf ((pf.cmap[i].port, x) :: xs) rx = boolByte (x.getLsbD pf.cmap[i].bit ^^ pf.cmap[i].pol) := by
  rw [Result.eval, sampleOf_cons, if_pos rfl]

theorem qpin_run_native {s : State} (hk : s.profile.kind = .native) (i : Fin 8) :
    (qpinPlan s.profile (BitVec.ofNat 8 i.val)).run s =
      s.pinRead i ((s.levels8 s.profile.cmap[i].port).setWidth 32) s.useq s.sspc := by
  rw [qpinPlan_fin, Plan.run_native _ hk]
  exact congrArg (State.complete _) (eval_pin_cons ..)

theorem qpin_run_wide {s : State} (hk : s.profile.kind = .wide) (huseq : s.useq = 0) (i : Fin 8) :
    (qpinPlan s.profile (BitVec.ofNat 8 i.val)).run s = s.pinRead i s.levels32 1 s.sspc := by
  rw [qpinPlan_fin, Plan.run_wide _ hk, runWide]
  simp only [huseq, List.getElem?_cons_zero, wideAccess, win]
  rw [State.advance_of_le _ (by simp)]
  simp only [State.keepSample_samples, State.keepSample_profile, State.keepSample_useq, huseq, eval_pin_cons]
  rfl

theorem qpin_run_remote {s : State} (hbuild : s.buildOk = true) (hk : s.profile.kind = .remote) (huseq : s.useq = 0)
    (hserves : s.linkServes) (i : Fin 8) :
    (qpinPlan s.profile (BitVec.ofNat 8 i.val)).run s =
      s.pinRead i ((s.levels8 s.profile.cmap[i].port).setWidth 32) (s.useq + 1)
        (Sspc.finished .main [s.profile.ctrlRd, regId s.profile .out s.profile.cmap[i].port, 0x00#8]
          (s.levels8 s.profile.cmap[i].port)) := by
  obtain ⟨hpf, -⟩ := s.buildOk_iff.mp hbuild
  have hread := remRead_regId_out hbuild hk (wf_line hpf (mem_lines_cmap s.profile i)).1
  rw [qpinPlan_fin, Plan.run_remote _ hk]
  refine (runRemote_singleton_of_linkServes huseq hserves (.sample _ (regId s.profile .out _)) _).trans ?_
  rw [← hread]
  exact congrArg (State.complete _) (eval_pin_cons ..)

/-- A port value that shows the line's level gives the complement of that level (R210, R84). -/
theorem State.pinRead_res {s : State} {i : Fin 8} {x : Word32} (hpf : s.profile.wf = true)
    (hx : ShowsLevels [s.env] s s.profile.cmap[i].port x) (n : Nat) (l : Sspc) :
    ((s.pinRead i x n l).res = 0x00#8 ∨ (s.pinRead i x n l).res = 0x01#8) ∧
      ∀ v : Bool, s.definiteLevel s.env s.profile.cmap[i].port s.profile.cmap[i].bit = some v →
        (s.pinRead i x n l).res = if v = true then 0x00#8 else 0x01#8 := by
  obtain ⟨-, hbit, hpol⟩ := wf_map_line hpf (.inr rfl) i
  refine ⟨?_, fun v hv => ?_⟩
  · rw [State.pinRead, boolByte]
    split
    · exact .inr rfl
    · exact .inl rfl
  · rw [State.pinRead, hpol, hx _ v hbit (by simpa using hv)]
    cases v <;> rfl

/-- Settles O34: on every kind the one step samples the line's port. -/
theorem qpinReturnsTheLogicalLevel : Obligations.QpinReturnsTheLogicalLevel := by
  intro s i hbuild huseq hserves
  obtain ⟨hpf, -⟩ := s.buildOk_iff.mp hbuild
  have hshows8 (hk : s.profile.kind ≠ .wide) := showsLevels_levels8 (es := [s.env]) hbuild rfl rfl
    (List.mem_singleton.mpr rfl) hk s.profile.cmap[i].port
  refine ⟨_, rfl, ?_⟩
  cases hk : s.profile.kind with
  | native =>
    rw [qpin_run_native hk]
    exact ⟨rfl, nofun, fun _ => rfl, State.pinRead_res hpf (hshows8 (by simp [hk])) _ _⟩
  | wide =>
    have hshows32 := showsLevels_levels32 (es := [s.env]) hbuild rfl rfl (List.mem_singleton.mpr rfl) hk
    rw [← map_port_wide hpf hk (.inr rfl) i] at hshows32
    rw [qpin_run_wide hk huseq]
    exact ⟨rfl, nofun, fun _ => rfl, State.pinRead_res hpf hshows32 _ _⟩
  | remote =>
    rw [qpin_run_remote hbuild hk huseq (hserves hk)]
    exact ⟨rfl, fun _ => ⟨rfl, rfl, rfl⟩, fun hne => absurd rfl hne,
      State.pinRead_res hpf (hshows8 (by simp [hk])) _ _⟩

end Sys2Proof.Machine
end

section
/-! # Refusals and notifications

The block has no runtime error (R220). A step is refused for one of two reasons: the state is not that of a
well-formed build (R221), or the command MAIN runs on REMOTE names an identifier that R33 gives no such access (U6). -/

namespace Sys2Proof.Machine

/-! ## What a refusal of a command names -/

/-- The refusal is one that U6 asks for on this profile: XRD or XWR on REMOTE, of an identifier with no meaning to
it. -/
def Refusal.NamesMeaninglessId (pf : Profile) (r : Refusal) : Prop :=
  pf.kind = .remote ∧ ∃ id : Byte,
    (r = .readOfUnspecifiedId id ∧ id ∉ pf.allIds) ∨
    (r = .writeOfUnspecifiedId id ∧ (id ∉ pf.allIds ∨ id = pf.regCap))

/-- An identifier without a class is none of the profile's (R33). -/
theorem not_mem_allIds_of_remoteClass {pf : Profile} {id : Byte} (h : remoteClass pf id = none) : id ∉ pf.allIds := by
  intro hid
  obtain ⟨c, hc⟩ := exists_remoteClass hid
  cases h.symm.trans hc

/-- No identifier of a port names the capture register. -/
theorem ne_capture_of_mem_classes {x : RemoteIds} {e : Byte × RemoteReg} (h : e ∈ RemoteIds.classes x) :
    e.2 ≠ .capture := by
  simp only [RemoteIds.classes, List.mem_cons, List.not_mem_nil, or_false] at h
  rcases h with rfl | rfl | rfl <;> nofun

/-- Only `REG_CAP` names the capture register (R33). -/
theorem eq_regCap_of_remoteClass {pf : Profile} {id : Byte} (h : remoteClass pf id = some .capture) :
    id = pf.regCap := by
  rw [remoteClass_eq_lookup] at h
  obtain ⟨_, _, hsplit, -⟩ := List.lookup_eq_some_iff.mp h
  have hmem : (id, .capture) ∈ remoteTable pf := hsplit ▸ List.mem_append_right _ List.mem_cons_self
  rcases List.mem_cons.mp hmem with heq | hport
  · exact congrArg Prod.fst heq
  · obtain ⟨x, -, hx⟩ := List.mem_flatMap.mp hport
    exact absurd rfl (ne_capture_of_mem_classes hx)

/-- XRD refuses only an identifier with no class (R159). -/
theorem execXrd_refused {s : State} {id : Byte} {r : Refusal} (h : execXrd id s = .refused r) :
    r.NamesMeaninglessId s.profile := by
  unfold execXrd at h
  split at h
  · rename_i hk
    split at h
    · cases h
    · rename_i hclass
      cases h
      exact ⟨hk, id, .inl ⟨rfl, not_mem_allIds_of_remoteClass hclass⟩⟩
  · cases h

/-- XWR refuses only `REG_CAP` and an identifier with no class (R160). -/
theorem execXwr_refused {s : State} {id v : Byte} {r : Refusal} (h : execXwr id v s = .refused r) :
    r.NamesMeaninglessId s.profile := by
  unfold execXwr at h
  split at h
  · rename_i hk
    split at h
    · rename_i hclass
      cases h
      exact ⟨hk, id, .inr ⟨rfl, .inr (eq_regCap_of_remoteClass hclass)⟩⟩
    · cases h
    · rename_i hclass
      cases h
      exact ⟨hk, id, .inr ⟨rfl, .inl (not_mem_allIds_of_remoteClass hclass)⟩⟩
  · cases h

/-- XRD and XWR are the only commands that are ever refused. -/
theorem exec_refused {i : Instr} {s : State} {r : Refusal} (h : exec i s = .refused r) :
    r.NamesMeaninglessId s.profile := by
  cases i with
  | xrd id => exact execXrd_refused h
  | xwr id v => exact execXwr_refused h
  | _ => cases h

/-- A reserved word is not refused (R85). -/
theorem execWord_refused {w : CommandWord} {s : State} {r : Refusal} (h : execWord w s = .refused r) :
    r.NamesMeaninglessId s.profile := by
  cases hdec : decode w with
  | ok i => exact exec_refused (execWord_ok s hdec ▸ h)
  | error e =>
    rw [execWord_reserved s hdec] at h
    cases h

/-- MAIN's step is refused only as the command it runs is. -/
theorem mainStep_refused {s : State} {r : Refusal} (h : mainStep s = .refused r) :
    r.NamesMeaninglessId s.profile := by
  rcases mainStep_cases s with ⟨-, hrun⟩ | ⟨-, -, hrun⟩ | ⟨w, rest, -, -, hrun⟩ <;> rw [hrun] at h
  · exact execWord_refused h
  · cases h
  · exact execWord_refused (s := s.accept w rest) h

/-! ## What a step of the machine is refused for -/

/-- On a well-formed build neither reset nor HND's step is refused. -/
theorem mainStep_inputs_refused {s : State} {r : Refusal} (hbuild : s.buildOk = true) (h : step s = .refused r) :
    mainStep s.inputs = .refused r := by
  rw [step, if_pos hbuild] at h
  split at h
  · cases h
  · split at h
    · cases h
    · exact h

/-- Settles O8: a step that is refused is MAIN's, for the identifier its command names. -/
theorem onlyMeaninglessIdsAreRefused : Obligations.OnlyMeaninglessIdsAreRefused := by
  intro s
  refine ⟨nofun, fun hbuild => if_neg (by simp [hbuild]), fun r hbuild h => ?_⟩
  have hnames := mainStep_refused (mainStep_inputs_refused hbuild h)
  rwa [State.inputs_profile] at hnames

/-! ## Notifications -/

/-- On REMOTE a notification raises a request (R226). -/
theorem State.applyNotify_of_notify {s : State} (hnotify : s.env.notify = true) (hk : s.profile.kind = .remote) :
    s.applyNotify = { s with hpend := true } :=
  if_pos ⟨hnotify, hk⟩

/-- Without a notification, or without the input for one, nothing happens (R226). -/
theorem State.applyNotify_of_not {s : State} (h : ¬(s.env.notify = true ∧ s.profile.kind = .remote)) :
    s.applyNotify = s :=
  if_neg h

/-- Settles O14: with `HPEND` set already, setting it is no change. -/
theorem notificationSetsThePendingBit : Obligations.NotificationSetsThePendingBit := by
  intro s
  refine ⟨State.applyNotify_of_notify, fun hnotify hk hpend => ?_, fun hquiet => ?_, fun hk => ?_⟩
  · rw [State.applyNotify_of_notify hnotify hk, ← hpend]
  · exact State.applyNotify_of_not fun ⟨hnotify, _⟩ => by simp [hquiet] at hnotify
  · exact State.applyNotify_of_not fun ⟨_, hremote⟩ => hk hremote

end Sys2Proof.Machine
end

section
/-! # Reset and the boot sequence

A step under reset is `applyReset` on that step's inputs (R250). The boot sequence is three commands whose net effects
are settled above: PREPIN and SETCDIR direct disjoint sets of lines, SETCST directs none, and only SETCST writes
latches (R253). -/

namespace Sys2Proof.Machine

/-! ## Reset -/

/-- Reset comes before both agents (R250). -/
theorem step_of_reset {s : State} (hbuild : s.buildOk = true) (hreset : s.nextEnv.env.reset = true) :
    step s = .next s.nextEnv.applyReset := by
  rw [step, if_pos hbuild, if_pos hreset]

/-- Settles O10: `applyReset` idles the block and the link, and spares the registers, which `resetOf` takes as they
are given. -/
theorem resetIdlesTheBlock : Obligations.ResetIdlesTheBlock := by
  refine ⟨fun s hbuild hreset => ⟨_, step_of_reset hbuild hreset, ?_⟩, fun pf init => ?_⟩
  · simp
  · exact ⟨rfl, rfl, rfl, rfl, rfl, rfl⟩

/-! ## What a direction command leaves on a line -/

/-- A selected line has the direction the command gave it (R28, R204). -/
theorem setsDirections.outputLine_eq {map : LineMap} {m d : Byte} {s t : State} (h : setsDirections map m d s t)
    (hprofile : t.profile = s.profile) {i : Fin 8} (hi : m.getLsbD i.val = true) :
    t.outputLine map[i].port map[i].bit = d.getLsbD i.val := by
  obtain ⟨hset, -⟩ := h
  obtain ⟨hdir, -⟩ := hset i hi
  rw [State.outputLine, hdir, hprofile, isOut, Bool.xor_assoc, Bool.xor_self, Bool.xor_false]

/-- A selected line is paired (R32). -/
theorem setsDirections.paired {map : LineMap} {m d : Byte} {s t : State} (h : setsDirections map m d s t)
    (hprofile : t.profile = s.profile) {i : Fin 8} (hi : m.getLsbD i.val = true) :
    t.paired map[i].port map[i].bit := by
  rw [State.paired, h.outputLine_eq hprofile hi]
  obtain ⟨hset, -⟩ := h
  obtain ⟨-, hpue⟩ := hset i hi
  exact hpue

/-- A line that is not selected keeps its direction. -/
theorem setsDirections.outputLine_kept {map : LineMap} {m d : Byte} {s t : State} (h : setsDirections map m d s t)
    (hprofile : t.profile = s.profile) {p b : Nat} (hb : ¬selected map m p b) :
    t.outputLine p b = s.outputLine p b := by
  obtain ⟨-, hkept⟩ := h
  obtain ⟨hdir, -⟩ := hkept p b hb
  rw [State.outputLine, hprofile, hdir, State.outputLine]

/-- A line that is not selected stays paired. -/
theorem setsDirections.paired_kept {map : LineMap} {m d : Byte} {s t : State} (h : setsDirections map m d s t)
    (hprofile : t.profile = s.profile) {p b : Nat} (hb : ¬selected map m p b) (hpaired : s.paired p b) :
    t.paired p b := by
  rw [State.paired, h.outputLine_kept hprofile hb]
  obtain ⟨-, hkept⟩ := h
  obtain ⟨-, hpue⟩ := hkept p b hb
  exact hpue.trans hpaired

/-- What came before a direction command and kept every direction and pull-up may be counted in. -/
theorem setsDirections.after_keepsDirections {map : LineMap} {m d : Byte} {s t u : State}
    (h : setsDirections map m d t u) (hprofile : t.profile = s.profile) (hkeeps : keepsDirections s t) :
    setsDirections map m d s u := by
  obtain ⟨hset, hkept⟩ := h
  refine ⟨hprofile ▸ hset, fun p b hb => ?_⟩
  obtain ⟨hdir, hpue⟩ := hkept p b hb
  obtain ⟨hdir', hpue'⟩ := hkeeps p b
  exact ⟨hdir.trans hdir', hpue.trans hpue'⟩

/-- No mask of control lines selects a data line (R23(b)). -/
theorem not_selected_cmap_dmap {pf : Profile} (hpf : pf.wf = true) (m : Byte) (i : Fin 8) :
    ¬selected pf.cmap m pf.dmap[i].port pf.dmap[i].bit := by
  rintro ⟨j, -, hport, hbit⟩
  exact wf_dmap_cmap_disjoint hpf i j hport.symm hbit.symm

/-! ## The boot sequence -/

/-- Settles O56: what PREPIN does to the data lines survives SETCST and SETCDIR, which select none of them, and what
SETCST does to the latches survives SETCDIR. -/
theorem bootSequencePairsEveryLine : Obligations.BootSequencePairsEveryLine := by
  intro s₁ t₁ s₂ t₂ s₃ bits dirs es₁ es₂ es₃ hready₁ hresp₁ hlen₁ hrun₁ hready₂ hprofile₂ hmem₂ hresp₂ hlen₂ hrun₂
    hready₃ hprofile₃ hmem₃ hresp₃ hlen₃
  obtain ⟨hbuild, -, -, -⟩ := s₁.ready_iff.mp hready₁
  obtain ⟨hpf, -⟩ := s₁.buildOk_iff.mp hbuild
  obtain ⟨_, hrun₁', -, -, hdata, hout₁⟩ := prepinNetEffect s₁ es₁ hready₁ hresp₁ hlen₁
  obtain rfl := Host.Outcome.next.inj (hrun₁.symm.trans hrun₁')
  obtain ⟨_, hrun₂', -, -, hlatches, hkeeps, hothers, -⟩ := setcstNetEffect s₂ bits 0xFF#8 es₂ hready₂ hresp₂ hlen₂
  obtain rfl := Host.Outcome.next.inj (hrun₂.symm.trans hrun₂')
  obtain ⟨t, hrun₃, hdone, -, hctrl, hout₃⟩ := setcdirNetEffect s₃ dirs 0xFF#8 es₃ hready₃ hresp₃ hlen₃
  have ht₁ : t₁.profile = s₁.profile := profile_of_runCommand hrun₁
  have hs₂ : s₂.profile = s₁.profile := hprofile₂.trans ht₁
  have hs₃ : s₃.profile = s₁.profile := hprofile₃.trans ((profile_of_runCommand hrun₂).trans hs₂)
  have ht : t.profile = t₁.profile := (profile_of_runCommand hrun₃).trans (hs₃.trans ht₁.symm)
  have hctrl : setsDirections s₁.profile.cmap 0xFF#8 dirs t₁ t :=
    (hs₃ ▸ hctrl).after_keepsDirections (hs₃.trans ht₁.symm)
      (by simpa only [keepsDirections, hmem₂, hmem₃] using hkeeps)
  rw [hs₂] at hlatches hothers
  refine ⟨t, hrun₃, hdone, fun i => ?_, fun p b ⟨hdmap, hcmap⟩ => ?_, fun hk p b hb => ?_⟩
  · have hi := getLsbD_allOnes8 i
    have hmiss := not_selected_cmap_dmap hpf 0xFF#8 i
    refine ⟨hctrl.paired_kept ht hmiss (hdata.paired ht₁ hi), hctrl.paired ht hi, ?_, hctrl.outputLine_eq ht hi, ?_⟩
    · rw [hctrl.outputLine_kept ht hmiss, hdata.outputLine_eq ht₁ hi, BitVec.getLsbD_zero]
    · rw [hout₃, hmem₃, hlatches i hi]
  · obtain ⟨-, hkept₁⟩ := hdata
    obtain ⟨-, hkept₃⟩ := hctrl
    obtain ⟨hdir₁, hpue₁⟩ := hkept₁ p b hdmap
    obtain ⟨hdir₃, hpue₃⟩ := hkept₃ p b hcmap
    exact ⟨hdir₃.trans hdir₁, hpue₃.trans hpue₁⟩
  · rw [hout₃, hmem₃, hothers hk p b hb, hmem₂, hout₁]

end Sys2Proof.Machine
end
